-- ==== Sys2Proof/Word.lean ====
section
/-! DEFINITION. The word types of FRAME_ENC's ports (10_state.md R21, 30_encoding.md R65). -/

namespace Sys2Proof

/-- An 8-bit value: address, command, frame byte or character (00_scope.md R7 `BYTE_W`, R8). -/
abbrev Byte := BitVec 8

/-- The 32-bit two's-complement weight port, in hundredths (30_encoding.md R67). -/
abbrev Weight := BitVec 32

/-- The 48-bit request word, bit 0 the least significant (30_encoding.md R65). -/
abbrev RequestWord := BitVec 48

end Sys2Proof
end

