-- ==== Sys2Proof/Syntax.lean ====
section
/-! DEFINITION. The syntax: the request the host offers, and the four operations of the opcode table
(spec/opcode_table.json, 30_encoding.md R68). -/

namespace Sys2Proof

/-- A request word by its three ports (30_encoding.md R65). Any command byte may stand in it, legal or not. -/
structure Request where
  addr   : Byte
  cmd    : Byte
  weight : Weight
  deriving DecidableEq, Repr

/-- The operations of FRAME_ENC, one constructor per row of spec/opcode_table.json. Each carries every operand
field of its word, so that no bit of the word is dropped; HANDSHAKE's weight is read by nothing (R129). -/
inductive Instr where
  /-- HANDSHAKE, command 0x41 (41_frame_builder.md R129). -/
  | handshake (addr : Byte) (weight : Weight)
  /-- READ_GROSS, command 0x42 (41_frame_builder.md R130). -/
  | readGross (addr : Byte) (weight : Weight)
  /-- READ_TARE, command 0x43 (41_frame_builder.md R131). -/
  | readTare (addr : Byte) (weight : Weight)
  /-- READ_NET, command 0x44 (41_frame_builder.md R132). -/
  | readNet (addr : Byte) (weight : Weight)
  deriving DecidableEq, Repr

end Sys2Proof
end

