-- ==== Sys2Proof/WellFormed.lean ====
section
/-! DEFINITION. Well-formedness. The ONE check the spec makes on a request's form is the exact match of its
command byte (30_encoding.md R68, R69); addresses and weights have no reserved values (R70, R66). -/

namespace Sys2Proof

/-- The four command bytes that select an operation (30_encoding.md R68). -/
def legalCommand (c : Byte) : Bool :=
  c == 0x41 || c == 0x42 || c == 0x43 || c == 0x44

/-- A request is well formed when its command byte is legal (30_encoding.md R69, R70). -/
def Request.wellFormed (r : Request) : Bool :=
  legalCommand r.cmd

/-- An operation's operands are an 8-bit address and a 32-bit weight, and every value of either is allowed
(30_encoding.md R70). A weight out of range is no ill-formed term: it is rejected with a status (R125). -/
def Instr.wellFormed : Instr → Bool
  | .handshake _ _ => true
  | .readGross _ _ => true
  | .readTare _ _  => true
  | .readNet _ _   => true

end Sys2Proof
end

