-- ==== Sys2Proof/Decode.lean ====
section
/-! DEFINITION. The decoder and the encoder of request words (30_encoding.md R65, R68, R69). -/

namespace Sys2Proof

/-- Why a request word names no operation. -/
inductive DecodeError where
  /-- The command byte is none of the four of R68 (30_encoding.md R69). The step takes Reject(ERR_CMD). -/
  | illegalCommand (cmd : Byte)
  deriving DecidableEq, Repr

/-- The 48-bit word of a request, `{weight, cmd, addr}` (30_encoding.md R65, R72). -/
def Request.toWord (r : Request) : RequestWord :=
  r.weight ++ r.cmd ++ r.addr

/-- The three fields of a 48-bit word (30_encoding.md R65). -/
def Request.ofWord (w : RequestWord) : Request where
  addr   := w.extractLsb' 0 8
  cmd    := w.extractLsb' 8 8
  weight := w.extractLsb' 16 32

/-- The command byte selects the operation by exact match of all 8 bits (30_encoding.md R68); every other
byte is refused by name (R69). -/
def decode (r : Request) : Except DecodeError Instr :=
  if r.cmd = 0x41 then .ok (.handshake r.addr r.weight)
  else if r.cmd = 0x42 then .ok (.readGross r.addr r.weight)
  else if r.cmd = 0x43 then .ok (.readTare r.addr r.weight)
  else if r.cmd = 0x44 then .ok (.readNet r.addr r.weight)
  else .error (.illegalCommand r.cmd)

/-- The decoder on the 48-bit word. -/
def decodeWord (w : RequestWord) : Except DecodeError Instr :=
  decode (Request.ofWord w)

/-- The decoder as the host asks for it. A table row may give only the low bits of the word; the bits above
`nbits` are 0. A word with a bit set above the 48 of R65 is no request word and is refused (log 7). -/
def decodeTableWord (nbits w : Nat) : Option Instr :=
  let v := w % 2 ^ nbits
  if v < 2 ^ 48 then
    match decodeWord (BitVec.ofNat 48 v) with
    | .ok i => some i
    | .error _ => none
  else none

/-- Each operation's command byte (30_encoding.md R68; spec/opcode_table.json `match`). -/
def Instr.command : Instr → Byte
  | .handshake _ _ => 0x41
  | .readGross _ _ => 0x42
  | .readTare _ _  => 0x43
  | .readNet _ _   => 0x44

/-- The address operand (30_encoding.md R66). -/
def Instr.addr : Instr → Byte
  | .handshake a _ => a
  | .readGross a _ => a
  | .readTare a _  => a
  | .readNet a _   => a

/-- The weight operand (30_encoding.md R67). -/
def Instr.weight : Instr → Weight
  | .handshake _ w => w
  | .readGross _ w => w
  | .readTare _ w  => w
  | .readNet _ w   => w

/-- The request that offers an operation (30_encoding.md R65). -/
def Instr.request (i : Instr) : Request where
  addr   := i.addr
  cmd    := i.command
  weight := i.weight

/-- The encoder: an operation's 48-bit request word (30_encoding.md R65, R68). -/
def encode (i : Instr) : RequestWord :=
  i.request.toWord

end Sys2Proof
end

