-- ==== Sys2Proof/Machine/Operands.lean ====
section
/-! DEFINITION. The operand forms: the protocol's constants and character codes, and the weight payload
assembled from the weight operand (30_encoding.md R71; 41_frame_builder.md R123 to R128). -/

namespace Sys2Proof.Machine

/-- `START` (00_scope.md R7, 10_state.md R31). -/
def startMarker : Byte := 0x02

/-- `END` (00_scope.md R7, 10_state.md R31). -/
def endMarker : Byte := 0x03

/-- `DEC_POS`, the character '2' (00_scope.md R7; 41_frame_builder.md R128). -/
def decPos : Byte := 0x32

/-- `MAG_MAX` (00_scope.md R7; 41_frame_builder.md R125). -/
def magMax : Nat := 999999

/-- The character '0' (30_encoding.md R80). -/
def charZero : Byte := 0x30

/-- The character '+' (30_encoding.md R80). -/
def charPlus : Byte := 0x2B

/-- The character '-' (30_encoding.md R80). -/
def charMinus : Byte := 0x2D

/-- `w = sext_32(req_weight)` (30_encoding.md R67). -/
def weightValue (weight : Weight) : Int :=
  weight.toInt

/-- `mag = abs(w)`, exact: no wrap at the most negative weight (41_frame_builder.md R126). -/
def magnitude (w : Int) : Nat :=
  w.natAbs

/-- Zero is positive (41_frame_builder.md R124). -/
def signChar (w : Int) : Byte :=
  if 0 ≤ w then charPlus else charMinus

/-- The character of the decimal digit of `mag` at the place `p`, a power of ten (41_frame_builder.md R127). -/
def digitChar (mag p : Nat) : Byte :=
  charZero + BitVec.ofNat 8 (mag / p % 10)

/-- Six decimal digits, most significant first, padded with '0' (41_frame_builder.md R127). -/
def digits6 (mag : Nat) : List Byte :=
  [100000, 10000, 1000, 100, 10, 1].map (digitChar mag)

/-- `Payload(w)`: sign, six digits, decimal-position indicator (41_frame_builder.md R123). -/
def payload (w : Int) : List Byte :=
  [signChar w] ++ digits6 (magnitude w) ++ [decPos]

end Sys2Proof.Machine
end

