-- ==== Sys2Proof/Machine/Checksum.lean ====
section
/-! DEFINITION. The Checksum Unit (40_checksum_unit.md). -/

namespace Sys2Proof.Machine

/-- `XorSum`: bitwise XOR over the bytes in order, starting from zero (40_checksum_unit.md R100). -/
def xorSum (bs : List Byte) : Byte :=
  bs.foldl (fun acc b => acc ^^^ b) 0

/-- `NibbleChar` by the literal offset of the source (40_checksum_unit.md R102; 90_conflicts.md C1). -/
def nibbleChar (n : BitVec 4) : Byte :=
  if n ≤ 9 then charZero + n.zeroExtend 8 else charZero + 7 + n.zeroExtend 8

/-- The high nibble `b[7:4]` (00_scope.md R8). -/
def highNibble (b : Byte) : BitVec 4 :=
  b.extractLsb' 4 4

/-- The low nibble `b[3:0]` (00_scope.md R8). -/
def lowNibble (b : Byte) : BitVec 4 :=
  b.extractLsb' 0 4

/-- `ChecksumChars`, the high-nibble character first (40_checksum_unit.md R104). -/
def checksumChars (v : Byte) : Byte × Byte :=
  (nibbleChar (highNibble v), nibbleChar (lowNibble v))

/-- `CharNibble`, the inverse of `NibbleChar`: no part of the block, none for a byte it does not define
(40_checksum_unit.md R105). -/
def charNibble (c : Byte) : Option (BitVec 4) :=
  if 0x30 ≤ c ∧ c ≤ 0x39 then some ((c - 0x30).truncate 4)
  else if 0x41 ≤ c ∧ c ≤ 0x46 then some ((c - 0x37).truncate 4)
  else none

/-- The checksum a receiver reads back from the two characters, `(hi << 4) | lo` (40_checksum_unit.md R105). -/
def readChecksum (hi lo : Byte) : Option Byte :=
  match charNibble hi, charNibble lo with
  | some h, some l => some ((h.zeroExtend 8 <<< 4) ||| l.zeroExtend 8)
  | _, _ => none

end Sys2Proof.Machine
end

