-- ==== Sys2Proof/Config.lean ====
section
/-! DEFINITION. What one implementation fixes and the values the spec leaves open. The protocol's constants
(START, END, DEC_POS, MAG_MAX) are fixed in the hardware (10_state.md R31) and stand in Machine/Operands.lean. -/

namespace Sys2Proof.Config

/-- `BUF_DEPTH`, the entries of the frame buffer (00_scope.md R7). -/
abbrev bufDepth : Nat := 14

/-- The n-th free byte: what a buffer entry of no defined value holds (10_state.md R24, R36; 93 S1). It has no
body, so nothing can be proved of its value. Log 4. -/
opaque freeByte : Nat → Byte

/-- What reading the buffer at an index past its last entry gives. The buffer has entries 0 to 13 (10_state.md
R22) and `idx` has 4 bits; no run reaches an index of 14 or 15. Log 5. -/
opaque absentEntry : Nat → Byte

end Sys2Proof.Config
end

