-- ==== Sys2Proof/Machine/State.lean ====
section
/-! DEFINITION. The state of FRAME_ENC as plain data, its reset value, and the reasons a step could stop. -/

namespace Sys2Proof.Machine

/-- FRAME_ENC has no trap and raises nothing beyond the reject, which is a next state (60_exceptions.md R206,
R208); its step is defined for every state and input (70_reset_and_hazards.md R249). So there is no fault. -/
inductive Fault : Type where
  deriving DecidableEq, Repr

/-- A step's refusal. -/
inductive Refusal where
  /-- Raised by an arm of `exec` whose instruction has no meaning yet; no arm raises it now. Safe. -/
  | notModelled (mnemonic : String)
  deriving DecidableEq, Repr

/-- The values the outside drives on the input ports at one rising edge of `clk` (10_state.md R21). -/
structure EdgeInput where
  rst      : Bool
  reqValid : Bool
  req      : Request
  txReady  : Bool
  deriving DecidableEq, Repr

/-- A byte taken by the sink, with the `tx_last` that stood beside it (10_state.md R27). -/
structure Transfer where
  data : Byte
  last : Bool
  deriving DecidableEq, Repr

/-- The state elements of 10_state.md R22, "and no other", and after them the model's own fields. -/
structure State where
  /-- A frame is held and being transmitted (R23). -/
  busy : Bool
  /-- The frame being transmitted, index 0 first (R22, R24). -/
  buf : Vector Byte Config.bufDepth
  /-- The number of valid bytes in `buf` (R22, R23). -/
  len : BitVec 4
  /-- The index in `buf` of the byte on `tx_data` (R22, R24). -/
  idx : BitVec 4
  /-- Drives `err_valid` (R22, R29). -/
  errValidR : Bool
  /-- Drives `err_code` (R22, R29). -/
  errCodeR : BitVec 2
  /-- The MODEL's own: what the outside drives at the coming edges, the next edge first. Log 1. -/
  inputs : List EdgeInput
  /-- The MODEL's own: the bytes the sink has taken, oldest first (20_memory.md R47, R56). Log 2. -/
  sent : List Transfer
  /-- The MODEL's own: how many free bytes were drawn (Config.freeByte). Log 4. -/
  draws : Nat
  deriving DecidableEq, Repr

/-- The machine right after a reset edge (10_state.md R36, 70_reset_and_hazards.md R243). The spec gives `buf`
no reset value: fourteen zero bytes are a DESIGN CHOICE (log 3). Nothing is placed on the inputs (log 7). -/
def State.reset : State where
  busy      := false
  buf       := Vector.replicate Config.bufDepth 0
  len       := 0
  idx       := 0
  errValidR := false
  errCodeR  := 0
  inputs    := []
  sent      := []
  draws     := 0

end Sys2Proof.Machine
end

