-- ==== Sys2Proof/Machine/Flags.lean ====
section
/-! DEFINITION. The status: reject codes and the update of `err_valid_r` and `err_code_r`
(60_exceptions.md R203, R204). FRAME_ENC has no other flag (10_state.md R30). -/

namespace Sys2Proof.Machine

/-- The causes of a reject (60_exceptions.md R201, R202). -/
inductive RejectCode where
  /-- The command byte is illegal (R201). -/
  | errCmd
  /-- A weight command's magnitude is over 999999 (R202). -/
  | errRange
  deriving DecidableEq, Repr

/-- The encoding of `err_code` (60_exceptions.md R204). 0b00 is NONE and 0b11 is never produced. -/
def RejectCode.bits : RejectCode → BitVec 2
  | .errCmd   => 0b01
  | .errRange => 0b10

/-- The status update at an edge with no reject: the pulse falls, the code stays (60_exceptions.md R203). -/
def State.clearPulse (s : State) : State :=
  { s with errValidR := false }

/-- TAKING A REJECT: the one effect a rejected request has (60_exceptions.md R200, R203, R208). It saves
nothing but the code, and there is no return from it (R209). -/
def State.takeReject (code : RejectCode) (s : State) : State :=
  { s with errValidR := true, errCodeR := code.bits }

end Sys2Proof.Machine
end

