-- ==== Sys2Proof/Machine/FrameBuilder.lean ====
section
/-! DEFINITION. The Frame Builder's parts, and the function `Build` of 41_frame_builder.md R120. -/

namespace Sys2Proof.Machine

/-- The one outcome of an accepted request (00_scope.md R6, 41_frame_builder.md R120). -/
inductive BuildOutcome where
  /-- The block emits these bytes, in order. -/
  | frame (bs : List Byte)
  /-- No byte is emitted and the reject status is set. -/
  | reject (code : RejectCode)
  deriving DecidableEq, Repr

/-- Start marker, body, the body's two checksum characters, end marker (41_frame_builder.md R121, R122). -/
def wrapBody (body : List Byte) : List Byte :=
  [startMarker] ++ body ++ [(checksumChars (xorSum body)).1, (checksumChars (xorSum body)).2, endMarker]

/-- The handshake frame, of an address and a command byte alone (41_frame_builder.md R129). -/
def handshakeFrame (addr cmd : Byte) : List Byte :=
  [startMarker, addr, cmd, (checksumChars (addr ^^^ cmd)).1, (checksumChars (addr ^^^ cmd)).2, endMarker]

/-- The shared pseudocode of the three weight commands (41_frame_builder.md R130): range check, payload,
checksum, frame. -/
def weightOutcome (addr cmd : Byte) (weight : Weight) : BuildOutcome :=
  if magMax < magnitude (weightValue weight) then .reject .errRange
  else .frame (wrapBody ([addr, cmd] ++ payload (weightValue weight)))

/-- `Build`, written from 41_frame_builder.md R120 as ONE function of the request word. The step does not call
it: it decodes and runs the operation's own meaning. That the two agree is a statement. -/
def build (r : Request) : BuildOutcome :=
  if r.cmd ∉ [0x41, 0x42, 0x43, 0x44] then .reject .errCmd
  else if r.cmd ≠ 0x41 then
    if 999999 < (r.weight.toInt).natAbs then .reject .errRange
    else .frame (wrapBody ([r.addr, r.cmd] ++ payload r.weight.toInt))
  else .frame (wrapBody [r.addr, r.cmd])

/-- `F(q)`: the bytes a request puts on the wire (20_memory.md R56). -/
def BuildOutcome.wire : BuildOutcome → List Byte
  | .frame bs => bs
  | .reject _ => []

end Sys2Proof.Machine
end

