-- ==== Sys2Proof/Machine/Ports.lean ====
section
/-! DEFINITION. The output ports as functions of the state alone (10_state.md R28), and the sampling of the
input ports at an edge (R21, R26). -/

namespace Sys2Proof.Machine

/-- `req_ready = not busy` (10_state.md R28). -/
def State.reqReady (s : State) : Bool := !s.busy

/-- `tx_valid = busy` (10_state.md R28). -/
def State.txValid (s : State) : Bool := s.busy

/-- `buf[idx]` (10_state.md R28). An index past the last entry reads a free value (log 5). -/
def State.currentByte (s : State) : Byte :=
  s.buf[s.idx.toNat]?.getD (Config.absentEntry s.idx.toNat)

/-- `idx == len - 1`, in the integers of 00_scope.md R9 (log 12). -/
def State.atLast (s : State) : Bool :=
  s.idx.toNat + 1 == s.len.toNat

/-- `tx_data`, defined only while busy = 1 (10_state.md R28; log 6). -/
def State.txData (s : State) : Option Byte :=
  if s.busy then some s.currentByte else none

/-- `tx_last = busy and (idx == len - 1)` (10_state.md R28). -/
def State.txLast (s : State) : Bool := s.busy && s.atLast

/-- `err_valid = err_valid_r` (10_state.md R28). -/
def State.errValid (s : State) : Bool := s.errValidR

/-- `err_code = err_code_r` (10_state.md R28). -/
def State.errCode (s : State) : BitVec 2 := s.errCodeR

/-- An edge at which the outside drives no reset, offers no request and takes no byte. -/
def EdgeInput.quiet : EdgeInput where
  rst      := false
  reqValid := false
  req      := ⟨0, 0, 0⟩
  txReady  := false

/-- The port values at the next edge. Past the list's end the outside is quiet (log 1). -/
def State.nextInput (s : State) : EdgeInput :=
  s.inputs.headD EdgeInput.quiet

/-- The state with the next edge's port values used up. -/
def State.popInput (s : State) : State :=
  { s with inputs := s.inputs.tail }

end Sys2Proof.Machine
end

