-- ==== Sys2Proof/Machine/Ops.lean ====
section
/-! DEFINITION. The named operations over the block's state: the four updates of an edge
(70_reset_and_hazards.md R245), and the answer to an accepted request. -/

namespace Sys2Proof.Machine

/-- A frame buffer that holds `bs` from index 0 on; every further entry is a free value (10_state.md R24,
70_reset_and_hazards.md R246 "left unspecified"; log 4). -/
def fillBuf (bs : List Byte) (draws : Nat) : Vector Byte Config.bufDepth :=
  Vector.ofFn fun i => bs.getD i (Config.freeByte (draws + i))

/-- Every entry of the buffer loses its defined value (10_state.md R24; log 4). -/
def State.forgetBuf (s : State) : State :=
  { s with buf := fillBuf [] s.draws, draws := s.draws + Config.bufDepth }

/-- RESET: the values of 10_state.md R36. What the sink has taken stays taken (70_reset_and_hazards.md R242),
and the coming inputs are the outside's (R241). -/
def State.resetEdge (s : State) : State :=
  { s.forgetBuf with busy := false, len := 0, idx := 0, errValidR := false, errCodeR := 0 }

/-- ACCEPT with outcome Frame: the frame is held and its first byte presented (70_reset_and_hazards.md R246);
the pulse falls (60_exceptions.md R203). -/
def State.loadFrame (bs : List Byte) (s : State) : State :=
  { s.clearPulse with
    busy := true, buf := fillBuf bs s.draws, len := BitVec.ofNat 4 bs.length, idx := 0,
    draws := s.draws + Config.bufDepth }

/-- TRANSFER: the sink takes the current byte; after the last one the block is idle again
(70_reset_and_hazards.md R247), and its buffer holds no defined value (10_state.md R24; log 4). -/
def State.transfer (s : State) : State :=
  let t : State := { s.clearPulse with sent := s.sent ++ [⟨s.currentByte, s.atLast⟩] }
  if s.atLast then { t.forgetBuf with busy := false, idx := 0 }
  else { t with idx := s.idx + 1 }

/-- HOLD: everything keeps its value but the pulse (70_reset_and_hazards.md R248, 60_exceptions.md R203). -/
def State.hold (s : State) : State :=
  s.clearPulse

/-- The answer to a request with this outcome (70_reset_and_hazards.md R246). A request offered while
`req_ready` = 0 is not accepted and nothing of it is recorded (10_state.md R25; log 11). -/
def answer (o : BuildOutcome) (s : State) : Host.Outcome State Fault Refusal :=
  if s.busy then .next s
  else match o with
    | .frame bs  => .next (s.loadFrame bs)
    | .reject code => .next (s.takeReject code)

/-- What happens at an edge (70_reset_and_hazards.md R245). -/
inductive Edge where
  | reset
  | accept (r : Request)
  | transfer
  | hold
  deriving DecidableEq, Repr

/-- Exactly one of the four updates happens at the next edge (70_reset_and_hazards.md R245). -/
def State.edge (s : State) : Edge :=
  if s.nextInput.rst then .reset
  else if s.busy then
    if s.nextInput.txReady then .transfer else .hold
  else if s.nextInput.reqValid then .accept s.nextInput.req
  else .hold

/-- The request accepted at an illegal command byte's edge is rejected (30_encoding.md R69, 60_exceptions.md
R201), whatever its address and weight (R205). -/
def illegalRequest (s : State) : Host.Outcome State Fault Refusal :=
  answer (.reject .errCmd) s

/-- The state at whose next edge the request `r` is offered and accepted: no reset, `req_valid` = 1, and the
block idle. The edge's other port values, and all else, stay (10_state.md R25; log 7). -/
def State.offerNext (r : Request) (s : State) : State :=
  { s with
    busy := false, idx := if s.busy then 0 else s.idx,
    inputs := { s.nextInput with rst := false, reqValid := true, req := r } :: s.inputs.tail }

end Sys2Proof.Machine
end

