-- ==== Sys2Proof/Machine/Handshake.lean ====
section
/-! DEFINITION. The meaning of HANDSHAKE (41_frame_builder.md R129). -/

namespace Sys2Proof.Machine

/-- HANDSHAKE (41_frame_builder.md R129): a 6-byte frame of the address and the command. The weight is read by
nothing and never checked. -/
def execHandshake (addr : Byte) (_weight : Weight) (s : State) : Host.Outcome State Fault Refusal :=
  answer (.frame (handshakeFrame addr 0x41)) s

end Sys2Proof.Machine
end

