-- ==== Sys2Proof/Machine/Weighing.lean ====
section
/-! DEFINITION. The meanings of the three weight commands (41_frame_builder.md R130 to R132). -/

namespace Sys2Proof.Machine

/-- READ_GROSS (41_frame_builder.md R130). -/
def execReadGross (addr : Byte) (weight : Weight) (s : State) : Host.Outcome State Fault Refusal :=
  answer (weightOutcome addr 0x42 weight) s

/-- READ_TARE (41_frame_builder.md R131). -/
def execReadTare (addr : Byte) (weight : Weight) (s : State) : Host.Outcome State Fault Refusal :=
  answer (weightOutcome addr 0x43 weight) s

/-- READ_NET (41_frame_builder.md R132). -/
def execReadNet (addr : Byte) (weight : Weight) (s : State) : Host.Outcome State Fault Refusal :=
  answer (weightOutcome addr 0x44 weight) s

end Sys2Proof.Machine
end

