-- ==== Sys2Proof/Machine/Dispatch.lean ====
section
/-! DEFINITION. The dispatch of an accepted operation to its meaning (30_encoding.md R68). -/

namespace Sys2Proof.Machine

def exec (i : Instr) (s : State) : Host.Outcome State Fault Refusal :=
  match i with
  | .handshake addr weight => Sys2Proof.Machine.execHandshake addr weight s
  | .readGross addr weight => Sys2Proof.Machine.execReadGross addr weight s
  | .readTare addr weight => Sys2Proof.Machine.execReadTare addr weight s
  | .readNet addr weight => Sys2Proof.Machine.execReadNet addr weight s

end Sys2Proof.Machine
end

