-- ==== Sys2Proof/Machine/Step.lean ====
section
/-! DEFINITION. One rising edge of `clk` (70_reset_and_hazards.md R245), and the placing of a request word at
the next edge. -/

namespace Sys2Proof.Machine

/-- The cycle step (70_reset_and_hazards.md R245): reset, accept, transfer or hold, over the port values of the
next edge. At an accept edge the request is decoded and its operation run. -/
def step (s : State) : Host.Outcome State Fault Refusal :=
  match s.edge with
  | .reset    => .next s.popInput.resetEdge
  | .transfer => .next s.popInput.transfer
  | .hold     => .next s.popInput.hold
  | .accept r =>
    match decode r with
    | .ok i    => exec i s.popInput
    | .error _ => illegalRequest s.popInput

/-- The state at whose next edge the request word `w` is offered and accepted (log 7). -/
def State.withFetchWord (s : State) (nbits w : Nat) : State :=
  s.offerNext (Request.ofWord (BitVec.ofNat 48 (w % 2 ^ nbits)))

end Sys2Proof.Machine
end

