-- ==== Sys2Proof/Machine/HostSide.lean ====
section
/-! DEFINITION. The host's side of the interface (42_request_dispatch.md), as functions beside the machine. The
block does not contain it (00_scope.md R4; 92_eei_decisions.md D21) and no step calls it. Log 9. -/

namespace Sys2Proof.Machine

/-- A signed decimal reading, `digits` divided by ten to the `places`: 70.15 is 7015 with 2 places
(42_request_dispatch.md R154). -/
structure Reading where
  digits : Int
  places : Nat
  deriving DecidableEq, Repr

/-- The reading store, outside the block (42_request_dispatch.md R154). Its readings are free inputs. -/
structure Store where
  gross : Reading
  tare  : Reading
  net   : Reading
  deriving DecidableEq, Repr

/-- What the spec leaves to the host, with the one bound it sets. -/
structure HostParams where
  /-- `ALIAS_ADDR`, open (42_request_dispatch.md R156). -/
  aliasAddr : Byte
  /-- The weight driven where no reading is needed: any value (R153, R160). -/
  undriven : Weight
  /-- The value offered for a reading that does not fit 32 bits (R158). -/
  overRange : Weight
  /-- Its magnitude is over 999999, so that the block rejects it (R158, R125): no host without this is built. -/
  overRange_large : magMax < magnitude (weightValue overRange)
  /-- Whether the host drops an unrecognised command instead of offering it (R153). -/
  drops : Bool
  deriving DecidableEq, Repr

/-- `trunc(v x 100)`, exact in decimal, toward zero (42_request_dispatch.md R158). -/
def Reading.hundredths (v : Reading) : Int :=
  Int.tdiv (v.digits * 100) (10 ^ v.places)

/-- The weight the host presents for a reading (42_request_dispatch.md R158). -/
def HostParams.present (p : HostParams) (v : Reading) : Weight :=
  if -(2 ^ 31) ≤ v.hundredths ∧ v.hundredths < 2 ^ 31 then BitVec.ofInt 32 v.hundredths else p.overRange

/-- The request the host offers for an inbound frame, given by its bytes before the terminating 0x03; none where
it offers nothing. The alias is checked first, whatever follows it (42_request_dispatch.md R155); then a frame
too short offers nothing (R152); then the command byte at index 2 selects the reading (R151, R153). -/
def HostParams.request (p : HostParams) (store : Store) (inbound : List Byte) : Option Request :=
  match inbound with
  | b0 :: b1 :: rest =>
    if b0 = 0x53 ∧ b1 = 0x49 then some ⟨p.aliasAddr, 0x44, p.present store.net⟩
    else match rest with
      | [] => none
      | c :: _ =>
        if c = 0x41 then some ⟨b1, c, p.undriven⟩
        else if c = 0x42 then some ⟨b1, c, p.present store.gross⟩
        else if c = 0x43 then some ⟨b1, c, p.present store.tare⟩
        else if c = 0x44 then some ⟨b1, c, p.present store.net⟩
        else if p.drops then none
        else some ⟨b1, c, p.undriven⟩
  | _ => none

/-- The inbound frames of a raw byte stream, in arrival order, each without its terminating 0x03; `acc` holds the
bytes read since the last terminator. Bytes that no 0x03 has followed yet are no frame (42_request_dispatch.md
R151). A frame ends at its first 0x03 (log 9). -/
def inboundFramesFrom (acc : List Byte) : List Byte → List (List Byte)
  | [] => []
  | b :: bs => if b = endMarker then acc :: inboundFramesFrom [] bs else inboundFramesFrom (acc ++ [b]) bs

/-- The inbound frames of a raw byte stream (42_request_dispatch.md R151). -/
def inboundFrames (raw : List Byte) : List (List Byte) :=
  inboundFramesFrom [] raw

/-- The first inbound frame of a raw byte sequence, without its terminating 0x03; none while no 0x03 has arrived
(42_request_dispatch.md R151, R152). -/
def inboundBytes (raw : List Byte) : Option (List Byte) :=
  (inboundFrames raw).head?

/-- The request offered for a raw inbound sequence: none before its frame has been read (42_request_dispatch.md
R151, R159). -/
def HostParams.offered (p : HostParams) (store : Store) (raw : List Byte) : Option Request :=
  (inboundBytes raw).bind (p.request store)

/-- The requests offered for a raw byte stream: one exchange at a time, each after its frame has been read, in the
order the frames arrived. `hostAt n` is what the host chooses and the store as it reads it at the n-th frame, so
that no draw is tied to another's (42_request_dispatch.md R154, R159; 93 U2, U8). -/
def HostParams.offers (hostAt : Nat → HostParams × Store) (raw : List Byte) : List Request :=
  (inboundFrames raw).zipIdx.filterMap fun x => (hostAt x.2).1.request (hostAt x.2).2 x.1

/-- What an exchange puts on the wire: the frame of the request offered, unchanged, or nothing
(42_request_dispatch.md R157). -/
def HostParams.reply (p : HostParams) (store : Store) (inbound : List Byte) : List Byte :=
  match p.request store inbound with
  | some r => (build r).wire
  | none   => []

end Sys2Proof.Machine
end

