-- ==== Sys2Proof/Safety.lean ====
section
/-! DEFINITION. The terms the statements use: the block's invariant, what is still to be sent, runs of several
edges, and when two states cannot be told apart. No step of this hardware stops, so a safe run is every run. -/

namespace Sys2Proof.Machine

/-- The bytes of the frame held (10_state.md R23). -/
def State.heldFrame (s : State) : List Byte :=
  s.buf.toList.take s.len.toNat

/-- A frame as the sink sees it: `tx_last` stands with the last byte alone (10_state.md R28, 30_encoding.md R77). -/
def asTransfers : List Byte → List Transfer
  | [] => []
  | [b] => [⟨b, true⟩]
  | b :: c :: bs => ⟨b, false⟩ :: asTransfers (c :: bs)

/-- What the sink has still to take of the frame held. -/
def State.pending (s : State) : List Transfer :=
  if s.busy then (asTransfers s.heldFrame).drop s.idx.toNat else []

/-- What a request puts on the transmit port (20_memory.md R56). -/
def Request.transfers (r : Request) : List Transfer :=
  asTransfers (build r).wire

/-- The invariant of a block that has been reset (10_state.md R23, R24; 60_exceptions.md R200, R203, R204). -/
structure State.Inv (s : State) : Prop where
  /-- While busy, the buffer holds the frame that Build chose for some request (R23). -/
  busyFrame : s.busy = true → ∃ r, build r = .frame s.heldFrame
  /-- While busy, `len` is 6 or 14 (R22). -/
  busyLen : s.busy = true → s.len = 6 ∨ s.len = 14
  /-- While busy, `idx` names a byte of the frame (R24). -/
  busyIdx : s.busy = true → s.idx.toNat < s.len.toNat
  /-- While idle, `idx` = 0 (R24). -/
  idleIdx : s.busy = false → s.idx = 0
  /-- The code 0b11 is never produced (R204). -/
  code : s.errCodeR ≠ 3
  /-- The pulse shows a reject: the block is idle (R200) and the code is not NONE (R203). -/
  pulse : s.errValidR = true → s.busy = false ∧ s.errCodeR ≠ 0

/-- The bytes the sink has taken of the frame held are the last ones it took, and none of them was marked
last (20_memory.md R53, R56). -/
def State.WireRecord (s : State) : Prop :=
  s.busy = true → ∃ before, s.sent = before ++ (asTransfers s.heldFrame).take s.idx.toNat

/-- `n` edges. -/
def run : Nat → State → Host.Outcome State Fault Refusal
  | 0, s => .next s
  | n + 1, s =>
    match step s with
    | .next t    => run n t
    | .fault f   => .fault f
    | .refused r => .refused r

/-- The requests accepted in `n` edges, in accept-edge order (20_memory.md R56). -/
def accepted : Nat → State → List Request
  | 0, _ => []
  | n + 1, s =>
    match s.edge, step s with
    | .accept r, .next t => r :: accepted n t
    | _, .next t         => accepted n t
    | _, _               => []

/-- None of the next `n` edges is a reset. -/
def State.noReset (s : State) (n : Nat) : Prop :=
  ∀ e ∈ s.inputs.take n, e.rst = false

/-- Everything an accept writes in `t` when the frame `bs` is accepted in `s`, and everything it leaves: the
entries of `buf` past the frame, and the model's draws, are said nothing of (70_reset_and_hazards.md R246). -/
structure LoadsFrame (bs : List Byte) (s t : State) : Prop where
  busy   : t.busy = true
  frame  : t.heldFrame = bs
  len    : t.len.toNat = bs.length
  idx    : t.idx = 0
  pulse  : t.errValidR = false
  code   : t.errCodeR = s.errCodeR
  inputs : t.inputs = s.inputs
  sent   : t.sent = s.sent

/-- Two states that agree in all but the buffer entries of no defined value and the model's count of draws
(10_state.md R24, R34). -/
structure SameDefined (s t : State) : Prop where
  busy      : s.busy = t.busy
  len       : s.len = t.len
  idx       : s.idx = t.idx
  errValidR : s.errValidR = t.errValidR
  errCodeR  : s.errCodeR = t.errCodeR
  inputs    : s.inputs = t.inputs
  sent      : s.sent = t.sent
  frame     : s.busy = true → s.heldFrame = t.heldFrame

/-- Two states that differ at most in the reject status. -/
structure SameButStatus (s t : State) : Prop where
  busy   : s.busy = t.busy
  buf    : s.buf = t.buf
  len    : s.len = t.len
  idx    : s.idx = t.idx
  inputs : s.inputs = t.inputs
  sent   : s.sent = t.sent
  draws  : s.draws = t.draws

/-- The weight frame of 30_encoding.md R76, index by index: its checksum is the XOR of indices 1 to 10. -/
def tableFrame (addr cmd : Byte) (w : Int) : List Byte :=
  let sign : Byte := if 0 ≤ w then 0x2B else 0x2D
  let d (p : Nat) : Byte := 0x30 + BitVec.ofNat 8 (w.natAbs / p % 10)
  let c := addr ^^^ cmd ^^^ sign ^^^ d 100000 ^^^ d 10000 ^^^ d 1000 ^^^ d 100 ^^^ d 10 ^^^ d 1 ^^^ 0x32
  [0x02, addr, cmd, sign, d 100000, d 10000, d 1000, d 100, d 10, d 1, 0x32,
    nibbleChar (highNibble c), nibbleChar (lowNibble c), 0x03]

/-- The weight a receiver reads from a weight frame (41_frame_builder.md R134(d)): sign at index 3, digits at
indices 4 to 9. -/
def readWeight (bs : List Byte) : Int :=
  (if bs.getD 3 0 = 0x2B then 1 else -1) *
    ((List.range 6).map fun k => (((bs.getD (9 - k) 0).toNat : Int) - 0x30) * 10 ^ k).sum

end Sys2Proof.Machine
end

