-- ==== Sys2Proof/Certificates/Slice0/Obligations.lean ====
section
/-! DEFINITION. The statements for the provers, from the numbered rules of spec/. The entries of `buf` that hold no
defined value and the model's `draws` are said nothing of anywhere (log 3, log 4). -/

open Sys2Proof Sys2Proof.Machine

/-- 10_state.md R36, 70_reset_and_hazards.md R240 and R241: at an edge with `rst` = 1 the state takes the reset
values, whatever the other ports carry; no request is accepted, no byte is transferred, and the outputs are
those of R36. -/
def Obligations.ResetEdgeTakesResetValues : Prop :=
  ∀ s : State, s.nextInput.rst = true →
    ∃ t, step s = .next t ∧
      t.busy = false ∧ t.len = 0 ∧ t.idx = 0 ∧ t.errValidR = false ∧ t.errCodeR = 0 ∧
      t.reqReady = true ∧ t.txValid = false ∧ t.txLast = false ∧ t.errValid = false ∧ t.errCode = 0 ∧
      t.sent = s.sent ∧ t.inputs = s.inputs.tail

/-- The outputs of the state right after reset (95_test_vectors.md CY-1). The clause on `txData` is the model's
choice, not the spec's: R28 leaves `tx_data` unspecified there, and the model gives it no value (log 6).
Nothing is said of `buf`, whose reset value is the model's choice too (log 3). -/
def Obligations.ResetStateIsIdleAndReady : Prop :=
  State.reset.busy = false ∧ State.reset.len = 0 ∧ State.reset.idx = 0 ∧
    State.reset.reqReady = true ∧ State.reset.txValid = false ∧ State.reset.txData = none ∧
    State.reset.txLast = false ∧ State.reset.errValid = false ∧ State.reset.errCode = 0

/-- The reset state meets the invariant and the wire record. -/
def Obligations.ResetStateMeetsInvariants : Prop :=
  State.reset.Inv ∧ State.reset.WireRecord

/-- Every step keeps the invariant of 10_state.md R23 and R24 and 60_exceptions.md R200, R203 and R204: the frame
held is Build's for some request, `len` is 6 or 14, `idx` names a byte of it, and the status is consistent. -/
def Obligations.StepKeepsBlockInvariant : Prop :=
  ∀ s t : State, s.Inv → step s = .next t → t.Inv

/-- Every step keeps this: the bytes taken of the frame held are the last bytes the sink took (20_memory.md R53). -/
def Obligations.StepKeepsWireRecord : Prop :=
  ∀ s t : State, s.Inv → s.WireRecord → step s = .next t → t.WireRecord

/-- Decoding and encoding agree both ways, with every operand at every value: the word of an operation decodes to
it, and a word that decodes to an operation is that operation's word (30_encoding.md R65, R68). That HANDSHAKE
words with a non-zero weight come back whole is the model's choice: its constructor carries the weight that
nothing reads, where R72's notation encodes it as 0 (log 13). -/
def Obligations.DecodeAndEncodeAgree : Prop :=
  (∀ i : Instr, i.wellFormed = true → decodeWord (encode i) = .ok i) ∧
    (∀ (w : RequestWord) (i : Instr), decodeWord w = .ok i → encode i = w)

/-- The decoder on every request: the four command bytes by exact match (30_encoding.md R68), every other one
refused by name (R69), for every address and weight (R70). -/
def Obligations.CommandByteSelectsOperation : Prop :=
  ∀ (a c : Byte) (w : Weight),
    (c = 0x41 → decode ⟨a, c, w⟩ = .ok (.handshake a w)) ∧
    (c = 0x42 → decode ⟨a, c, w⟩ = .ok (.readGross a w)) ∧
    (c = 0x43 → decode ⟨a, c, w⟩ = .ok (.readTare a w)) ∧
    (c = 0x44 → decode ⟨a, c, w⟩ = .ok (.readNet a w)) ∧
    (c ≠ 0x41 → c ≠ 0x42 → c ≠ 0x43 → c ≠ 0x44 → decode ⟨a, c, w⟩ = .error (.illegalCommand c))

/-- Request words written out in 95_test_vectors.md 2.3 decode to the requests they stand for (FB-1, FB-10,
FB-17, FB-21), and one with an illegal command byte is refused (FB-29). -/
def Obligations.ListedWordsDecodeAsListed : Prop :=
  decodeWord 0x000000004131 = .ok (.handshake 0x31 0) ∧
    decodeWord 0x0001E2404231 = .ok (.readGross 0x31 123456) ∧
    decodeWord 0xFFFFFF294331 = .ok (.readTare 0x31 (-215)) ∧
    decodeWord 0x00001B674431 = .ok (.readNet 0x31 7015) ∧
    decodeWord 0x00000000C131 = .error (.illegalCommand 0xC1)

/-- At an accept edge (10_state.md R25) whose request decodes to `i`, a step is `exec i` at the state whose input
for this edge is used up. -/
def Obligations.StepRunsDecodedRequest : Prop :=
  ∀ (s : State) (i : Instr),
    s.busy = false → s.nextInput.rst = false → s.nextInput.reqValid = true → decode s.nextInput.req = .ok i →
      step s = exec i s.popInput

/-- A word placed at the next edge is run by the very next step. The placing is the model's own (log 7). -/
def Obligations.PlacedWordRunsNext : Prop :=
  ∀ (s : State) (w : Nat) (i : Instr), w < 2 ^ 48 → decodeTableWord 48 w = some i →
    step (s.withFetchWord 48 w) = exec i (s.withFetchWord 48 w).popInput

/-- HANDSHAKE (41_frame_builder.md R129, 30_encoding.md R75): for every address and every weight, the 6 bytes of the
table; nothing else defined changes but `busy`, `len`, `idx` and the pulse. -/
def Obligations.HandshakeLoadsItsFrame : Prop :=
  ∀ (s : State) (a : Byte) (w : Weight), s.busy = false →
    ∃ t, exec (.handshake a w) s = .next t ∧
      LoadsFrame [0x02, a, 0x41, nibbleChar (highNibble (a ^^^ 0x41)), nibbleChar (lowNibble (a ^^^ 0x41)), 0x03] s t

/-- HANDSHAKE reads no weight (41_frame_builder.md R129), busy or idle. -/
def Obligations.HandshakeIgnoresWeight : Prop :=
  ∀ (s : State) (a : Byte) (w w' : Weight), exec (.handshake a w) s = exec (.handshake a w') s

/-- READ_GROSS, READ_TARE and READ_NET within range: the 14 bytes of the table of 30_encoding.md R76, each with its
own command byte; nothing else defined changes but `busy`, `len`, `idx` and the pulse. -/
def Obligations.WeightCommandsLoadTheirFrames : Prop :=
  ∀ (s : State) (a : Byte) (w : Weight), s.busy = false → w.toInt.natAbs ≤ 999999 →
    (∃ t, exec (.readGross a w) s = .next t ∧ LoadsFrame (tableFrame a 0x42 w.toInt) s t) ∧
    (∃ t, exec (.readTare a w) s = .next t ∧ LoadsFrame (tableFrame a 0x43 w.toInt) s t) ∧
    (∃ t, exec (.readNet a w) s = .next t ∧ LoadsFrame (tableFrame a 0x44 w.toInt) s t)

/-- 41_frame_builder.md R125 and 60_exceptions.md R202: a weight command whose magnitude is over 999999 changes the
status and nothing else; within the bound it is framed; HANDSHAKE is framed at every weight. -/
def Obligations.OverRangeWeightsAreRejected : Prop :=
  ∀ (s : State) (a : Byte) (w : Weight), s.busy = false →
    (999999 < w.toInt.natAbs →
      exec (.readGross a w) s = .next { s with errValidR := true, errCodeR := 0b10 } ∧
      exec (.readTare a w) s = .next { s with errValidR := true, errCodeR := 0b10 } ∧
      exec (.readNet a w) s = .next { s with errValidR := true, errCodeR := 0b10 }) ∧
    (∀ i ∈ [Instr.readGross a w, Instr.readTare a w, Instr.readNet a w], w.toInt.natAbs ≤ 999999 →
      ∃ t, exec i s = .next t ∧ t.busy = true ∧ t.errValidR = false ∧ t.errCodeR = s.errCodeR) ∧
    (∃ t, exec (.handshake a w) s = .next t ∧ t.busy = true ∧ t.errValidR = false ∧ t.errCodeR = s.errCodeR)

/-- 60_exceptions.md R201 and R205: an accepted request with an illegal command byte gives ERR_CMD whatever its
address and weight, and changes nothing but the status. -/
def Obligations.IllegalCommandsAreRejected : Prop :=
  ∀ s : State, s.busy = false → s.nextInput.rst = false → s.nextInput.reqValid = true →
    s.nextInput.req.cmd ∉ ([0x41, 0x42, 0x43, 0x44] : List Byte) →
      step s = .next { s with inputs := s.inputs.tail, errValidR := true, errCodeR := 0b01 }

/-- 70_reset_and_hazards.md R246 and 60_exceptions.md R200: an accept edge does what Build (41_frame_builder.md R120)
says of the request word. A frame is loaded, with its first byte 0x02 on `tx_data` in the next cycle; a reject
changes the status alone and the block stays ready. -/
def Obligations.AcceptEdgeFollowsBuild : Prop :=
  ∀ s : State, s.busy = false → s.nextInput.rst = false → s.nextInput.reqValid = true →
    (∀ bs, build s.nextInput.req = .frame bs →
      ∃ t, step s = .next t ∧ LoadsFrame bs s.popInput t ∧ t.txValid = true ∧ t.txData = some 0x02) ∧
    (∀ code, build s.nextInput.req = .reject code →
      step s = .next { s with inputs := s.inputs.tail, errValidR := true, errCodeR := code.bits })

/-- 60_exceptions.md R203: at every edge without reset the pulse rises exactly when a request is accepted and
rejected, and only then is the code written. -/
def Obligations.StatusUpdatesOnlyOnReject : Prop :=
  ∀ s t : State, s.nextInput.rst = false → step s = .next t →
    (∀ code, s.busy = false → s.nextInput.reqValid = true → build s.nextInput.req = .reject code →
      t.errValidR = true ∧ t.errCodeR = code.bits) ∧
    (¬ (s.busy = false ∧ s.nextInput.reqValid = true ∧ ∃ code, build s.nextInput.req = .reject code) →
      t.errValidR = false ∧ t.errCodeR = s.errCodeR)

/-- 70_reset_and_hazards.md R247 and 10_state.md R27: at a transfer edge the sink takes `tx_data` with its `tx_last`;
after the last byte the block is idle at index 0, else the index goes up by one and the frame stays. -/
def Obligations.TransferTakesOneByte : Prop :=
  ∀ s : State, s.Inv → s.nextInput.rst = false → s.busy = true → s.nextInput.txReady = true →
    ∃ t b, step s = .next t ∧ s.txData = some b ∧ t.sent = s.sent ++ [⟨b, s.txLast⟩] ∧
      (s.idx.toNat = s.len.toNat - 1 → s.txLast = true ∧ t.busy = false ∧ t.idx = 0) ∧
      (s.idx.toNat ≠ s.len.toNat - 1 →
        s.txLast = false ∧ t.busy = true ∧ t.idx.toNat = s.idx.toNat + 1 ∧ t.buf = s.buf) ∧
      t.len = s.len ∧ t.errValidR = false ∧ t.errCodeR = s.errCodeR ∧ t.inputs = s.inputs.tail

/-- 70_reset_and_hazards.md R248: at every other edge without reset nothing changes but the pulse and the input used
up, and the same byte stays on `tx_data` with the same `tx_last` (10_state.md R27). -/
def Obligations.HoldKeepsEverything : Prop :=
  ∀ s : State, s.nextInput.rst = false →
    (s.busy = true ∧ s.nextInput.txReady = false ∨ s.busy = false ∧ s.nextInput.reqValid = false) →
      ∃ t, step s = .next t ∧ t = { s with inputs := s.inputs.tail, errValidR := false } ∧
        t.txData = s.txData ∧ t.txLast = s.txLast

/-- 10_state.md R25 and R26, 70_reset_and_hazards.md R250: while busy, or under reset, a request offered has no effect
whatever it is; an address, command and weight not offered have none. The third clause is the model's choice
(log 11): `exec` of an operation in a busy state, a case the step never reaches, records nothing. -/
def Obligations.UnacceptedRequestsLeaveNoTrace : Prop :=
  (∀ (s : State) (e : EdgeInput) (rest : List EdgeInput) (v : Bool) (r : Request), s.busy = true ∨ e.rst = true →
    step { s with inputs := { e with reqValid := v, req := r } :: rest } = step { s with inputs := e :: rest }) ∧
  (∀ (s : State) (e : EdgeInput) (rest : List EdgeInput) (r : Request), e.reqValid = false →
    step { s with inputs := { e with req := r } :: rest } = step { s with inputs := e :: rest }) ∧
  (∀ (s : State) (i : Instr), s.busy = true → exec i s = .next s)

/-- 70_reset_and_hazards.md R249: the step answers a next state for every state and every input. -/
def Obligations.EveryStepAnswersNext : Prop :=
  ∀ s : State, ∃ t, step s = .next t

/-- The five laws of 40_checksum_unit.md R101. -/
def Obligations.XorSumLaws : Prop :=
  xorSum [] = 0 ∧
    (∀ bs cs : List Byte, bs.Perm cs → xorSum bs = xorSum cs) ∧
    (∀ bs : List Byte, xorSum bs = xorSum bs.reverse) ∧
    (∀ as bs : List Byte, xorSum (as ++ bs) = xorSum as ^^^ xorSum bs) ∧
    (∀ (x : Byte) (bs : List Byte), xorSum ([x, x] ++ bs) = xorSum bs) ∧
    (∀ bs : List Byte, xorSum (bs ++ [xorSum bs]) = 0)

/-- The complete table of 40_checksum_unit.md R103. -/
def Obligations.NibbleCharTable : Prop :=
  (List.range 16).map (fun n => nibbleChar (BitVec.ofNat 4 n)) =
    [0x30, 0x31, 0x32, 0x33, 0x34, 0x35, 0x36, 0x37, 0x38, 0x39, 0x41, 0x42, 0x43, 0x44, 0x45, 0x46]

/-- 40_checksum_unit.md R105: CharNibble on its two ranges and none elsewhere, its round trip with NibbleChar, and the
round trip of every frame: the two checksum characters read back are the XOR of the bytes between the start
marker and them. -/
def Obligations.ChecksumReadsBack : Prop :=
  (∀ c : Byte, 0x30 ≤ c → c ≤ 0x39 → ∃ n, charNibble c = some n ∧ n.toNat = c.toNat - 0x30) ∧
    (∀ c : Byte, 0x41 ≤ c → c ≤ 0x46 → ∃ n, charNibble c = some n ∧ n.toNat = c.toNat - 0x37) ∧
    (∀ c : Byte, ¬ (0x30 ≤ c ∧ c ≤ 0x39) → ¬ (0x41 ≤ c ∧ c ≤ 0x46) → charNibble c = none) ∧
    (∀ n : BitVec 4, charNibble (nibbleChar n) = some n) ∧
    (∀ (r : Request) (bs : List Byte), build r = .frame bs →
      ∃ hi lo, bs[bs.length - 3]? = some hi ∧ bs[bs.length - 2]? = some lo ∧
        readChecksum hi lo = some (xorSum ((bs.take (bs.length - 3)).drop 1)))

/-- 30_encoding.md R79 and R77: the value set of every position of every frame Build makes, its length by its command
byte, and only the address can be a marker value inside it. -/
def Obligations.FramePositionsHoldTheirValues : Prop :=
  ∀ (r : Request) (bs : List Byte), build r = .frame bs →
    bs.length = (if r.cmd = 0x41 then 6 else 14) ∧
    bs[0]? = some 0x02 ∧ bs[bs.length - 1]? = some 0x03 ∧ bs[1]? = some r.addr ∧ bs[2]? = some r.cmd ∧
    (∃ c, bs[2]? = some c ∧ 0x41 ≤ c ∧ c ≤ 0x44) ∧
    (r.cmd ≠ 0x41 →
      (bs[3]? = some 0x2B ∨ bs[3]? = some 0x2D) ∧ bs[10]? = some 0x32 ∧
      ∀ k, 4 ≤ k → k ≤ 9 → ∃ d, bs[k]? = some d ∧ 0x30 ≤ d ∧ d ≤ 0x39) ∧
    (∀ k, k = bs.length - 3 ∨ k = bs.length - 2 →
      ∃ c, bs[k]? = some c ∧ (0x30 ≤ c ∧ c ≤ 0x39 ∨ 0x41 ≤ c ∧ c ≤ 0x46)) ∧
    (∀ k b, k ≠ 0 → k ≠ 1 → k ≠ bs.length - 1 → bs[k]? = some b → 0x20 ≤ b ∧ b ≤ 0x7E ∧ b ≠ 0x02 ∧ b ≠ 0x03)

/-- 41_frame_builder.md R134(d): the weight is recovered from the frame, and '-' with six zeros never occurs. -/
def Obligations.WeightReadsBackFromFrame : Prop :=
  ∀ (r : Request) (bs : List Byte), build r = .frame bs → r.cmd ≠ 0x41 →
    readWeight bs = r.weight.toInt ∧
    ¬ (bs[3]? = some 0x2D ∧ ∀ k, 4 ≤ k → k ≤ 9 → bs[k]? = some 0x30)

/-- 41_frame_builder.md R134(e): frames of two weight commands for the same address and weight differ at the command
byte and the checksum characters only, and at least one checksum character differs. -/
def Obligations.CommandsDifferInCommandAndChecksum : Prop :=
  ∀ (a c c' : Byte) (w : Weight) (bs cs : List Byte), c ≠ c' → c ≠ 0x41 → c' ≠ 0x41 →
    build ⟨a, c, w⟩ = .frame bs → build ⟨a, c', w⟩ = .frame cs →
      (∀ k, k ≠ 2 → k ≠ 11 → k ≠ 12 → bs[k]? = cs[k]?) ∧ bs[2]? ≠ cs[2]? ∧
      (bs[11]? ≠ cs[11]? ∨ bs[12]? ≠ cs[12]?)

/-- A frame tells its request: two requests with the same frame have the same address and command, and for a weight
command the same weight. -/
def Obligations.FrameDeterminesRequest : Prop :=
  ∀ (r q : Request) (bs : List Byte), build r = .frame bs → build q = .frame bs →
    r.addr = q.addr ∧ r.cmd = q.cmd ∧ (r.cmd ≠ 0x41 → r.weight = q.weight)

/-- 20_memory.md R56: over any number of edges without reset, the bytes on the transmit port are those still to come of
the frame held at first, then the frames of the requests accepted, in accept order; what is not yet taken is the
rest of the frame held at last. `tx_last` stands at the last byte of each frame alone. -/
def Obligations.ByteStreamIsAcceptedFrames : Prop :=
  ∀ (n : Nat) (s t : State), s.Inv → s.noReset n → run n s = .next t →
    t.sent ++ t.pending = s.sent ++ s.pending ++ (accepted n s).flatMap Request.transfers

/-- 20_memory.md R57: when a request is rejected, `err_valid` is 1 in the cycle after its accept edge; every byte of
every earlier frame has been transferred by then, and no byte of a later one is presented. -/
def Obligations.RejectFollowsEarlierFrames : Prop :=
  ∀ (n : Nat) (s t : State) (code : RejectCode), s.Inv → s.noReset n → run n s = .next t →
    t.busy = false → t.nextInput.rst = false → t.nextInput.reqValid = true →
    build t.nextInput.req = .reject code →
      ∃ u, step t = .next u ∧ u.errValid = true ∧ u.errCode = code.bits ∧ u.txValid = false ∧
        u.sent = s.sent ++ s.pending ++ (accepted n s).flatMap Request.transfers

/-- 70_reset_and_hazards.md R254, the spec's reference timing, with the sink always ready: after a frame's accept edge,
byte k is transferred at edge k + 1, and the block is idle again after as many edges as the frame has bytes. -/
def Obligations.FrameTakesOneEdgePerByte : Prop :=
  ∀ (s : State) (bs : List Byte) (k : Nat),
    s.busy = false → s.nextInput.rst = false → s.nextInput.reqValid = true → build s.nextInput.req = .frame bs →
    (∀ e ∈ (s.inputs.drop 1).take bs.length, e.rst = false ∧ e.txReady = true) → bs.length < s.inputs.length →
    k ≤ bs.length →
      ∃ t, run (1 + k) s = .next t ∧ t.sent = s.sent ++ (asTransfers bs).take k ∧
        (t.busy = false ↔ k = bs.length)

/-- 70_reset_and_hazards.md R255: without reset, a frame held is sent whole within the edges at which the sink is ready
as often as bytes are left. -/
def Obligations.FrameCompletesAsSinkTakes : Prop :=
  ∀ (n : Nat) (s : State), s.Inv → s.busy = true → s.noReset n →
    s.len.toNat - s.idx.toNat ≤ ((s.inputs.take n).filter (fun e => e.txReady)).length →
      ∃ m t, m ≤ n ∧ run m s = .next t ∧ t.busy = false ∧ t.sent = s.sent ++ s.pending

/-- 20_memory.md R53, 10_state.md R23: without reset, a frame held stays the frame held until its last byte is taken. -/
def Obligations.HeldFrameIsContiguous : Prop :=
  ∀ s t : State, s.Inv → s.busy = true → s.nextInput.rst = false → step s = .next t →
    (t.busy = true → t.heldFrame = s.heldFrame ∧ t.len = s.len) ∧
    (t.busy = false → t.sent = s.sent ++ s.pending)

/-- 70_reset_and_hazards.md R242: a reset in mid-frame leaves on the wire a proper part of the frame from its start, with
no byte marked last, and nothing of it is still to come. -/
def Obligations.ResetCutsFrameToAPart : Prop :=
  ∀ s : State, s.Inv → s.WireRecord → s.busy = true → s.nextInput.rst = true →
    ∃ t before part, step s = .next t ∧ t.sent = s.sent ∧ s.sent = before ++ part ∧
      part.map Transfer.data = s.heldFrame.take s.idx.toNat ∧ s.idx.toNat < s.heldFrame.length ∧
      (∀ x ∈ part, x.last = false) ∧ t.pending = [] ∧ t.reqReady = true

/-- 60_exceptions.md R208, 10_state.md R30: the reject status is read by nothing. Two states that differ only in it step
to states that differ at most in the code, and after an edge that is a reject or a reset in nothing. -/
def Obligations.StatusIsReadByNothing : Prop :=
  ∀ s t s' t' : State, SameButStatus s t → step s = .next s' → step t = .next t' →
    SameButStatus s' t' ∧ s'.errValidR = t'.errValidR ∧
      (s'.errValidR = true ∨ s.nextInput.rst = true → s' = t')

/-- 10_state.md R24 and R34: buffer entries of no defined value are seen by nothing. Two states that agree on all else
have the same outputs, and step to states that agree on all else again. -/
def Obligations.UndefinedEntriesAreNeverSeen : Prop :=
  ∀ s t : State, s.Inv → SameDefined s t →
    s.txData = t.txData ∧ s.txLast = t.txLast ∧ s.pending = t.pending ∧
    ∀ s' t', step s = .next s' → step t = .next t' → SameDefined s' t'

/-- 60_exceptions.md R209: rejects accepted at two consecutive edges keep `err_valid` at 1 for two cycles, with the
first code and then the second, and the block ready throughout. -/
def Obligations.ConsecutiveRejectsKeepPulse : Prop :=
  ∀ (s : State) (e f : EdgeInput) (rest : List EdgeInput) (c d : RejectCode),
    s.busy = false → s.inputs = e :: f :: rest →
    e.rst = false → e.reqValid = true → build e.req = .reject c →
    f.rst = false → f.reqValid = true → build f.req = .reject d →
      ∃ t u, run 1 s = .next t ∧ run 2 s = .next u ∧
        t.errValid = true ∧ t.errCode = c.bits ∧ t.reqReady = true ∧
        u.errValid = true ∧ u.errCode = d.bits ∧ u.reqReady = true ∧ u.sent = s.sent

/-- 42_request_dispatch.md R155: inbound bytes that begin 'S','I' offer READ_NET with the net reading, whatever follows. -/
def Obligations.AliasOffersReadNet : Prop :=
  ∀ (p : HostParams) (store : Store) (rest : List Byte),
    p.request store (0x53 :: 0x49 :: rest) = some ⟨p.aliasAddr, 0x44, p.present store.net⟩

/-- 42_request_dispatch.md R151 and R152: an inbound sequence with fewer than 3 bytes before its terminating 0x03 offers
nothing, but for the alias; and one that no 0x03 terminates offers nothing at all. That the terminator is the
FIRST 0x03 is the model's choice (log 9). -/
def Obligations.ShortInboundOffersNothing : Prop :=
  ∀ (p : HostParams) (store : Store) (raw : List Byte),
    (∀ body, inboundBytes raw = some body → body.length < 3 → ¬ (body[0]? = some 0x53 ∧ body[1]? = some 0x49) →
      p.offered store raw = none) ∧
    ((0x03 : Byte) ∉ raw → p.offered store raw = none)

/-- 42_request_dispatch.md R153: an inbound frame that is not the alias offers index 1 as the address, index 2 as the
command, and the reading the command needs; an unrecognised command gets no response, offered or dropped. -/
def Obligations.DispatchReadsIndicesOneAndTwo : Prop :=
  ∀ (p : HostParams) (store : Store) (b0 b1 c : Byte) (rest : List Byte), ¬ (b0 = 0x53 ∧ b1 = 0x49) →
    (c = 0x41 → ∃ w, p.request store (b0 :: b1 :: c :: rest) = some ⟨b1, c, w⟩) ∧
    (c = 0x42 → p.request store (b0 :: b1 :: c :: rest) = some ⟨b1, c, p.present store.gross⟩) ∧
    (c = 0x43 → p.request store (b0 :: b1 :: c :: rest) = some ⟨b1, c, p.present store.tare⟩) ∧
    (c = 0x44 → p.request store (b0 :: b1 :: c :: rest) = some ⟨b1, c, p.present store.net⟩) ∧
    (c ∉ ([0x41, 0x42, 0x43, 0x44] : List Byte) → p.reply store (b0 :: b1 :: c :: rest) = [])

/-- 42_request_dispatch.md R158: the weight presented for a reading is its value times 100 truncated toward zero, exactly;
a reading with two places loses nothing; one that does not fit 32 bits is rejected by the block, whatever value
of a magnitude over 999999 the host offers for it. -/
def Obligations.ReadingsTruncateTowardZero : Prop :=
  ∀ (p : HostParams) (v : Reading),
    v.hundredths.natAbs * 10 ^ v.places ≤ (v.digits * 100).natAbs ∧
    (v.digits * 100).natAbs < (v.hundredths.natAbs + 1) * 10 ^ v.places ∧
    0 ≤ v.hundredths * v.digits ∧
    (v.places = 2 → v.hundredths = v.digits) ∧
    (-(2 ^ 31) ≤ v.hundredths → v.hundredths < 2 ^ 31 → (p.present v).toInt = v.hundredths) ∧
    (¬ (-(2 ^ 31) ≤ v.hundredths ∧ v.hundredths < 2 ^ 31) →
      ∀ (a c : Byte), c ∈ ([0x42, 0x43, 0x44] : List Byte) → build ⟨a, c, p.present v⟩ = .reject .errRange)

/-- 42_request_dispatch.md R151 and R159: over a raw stream of terminated frames and a rest no 0x03 has ended yet, the
host offers the requests of the frames in the order they arrived, and nothing for the rest. That a frame holds no
0x03 of its own is the model's choice (log 9). -/
def Obligations.RequestsFollowInboundFrames : Prop :=
  ∀ (hostAt : Nat → HostParams × Store) (bodies : List (List Byte)) (rest : List Byte),
    (∀ body ∈ bodies, (0x03 : Byte) ∉ body) → (0x03 : Byte) ∉ rest →
      inboundFrames (bodies.flatMap (fun body => body ++ [0x03]) ++ rest) = bodies ∧
      HostParams.offers hostAt (bodies.flatMap (fun body => body ++ [0x03]) ++ rest) =
        bodies.zipIdx.filterMap (fun x => (hostAt x.2).1.request (hostAt x.2).2 x.1)
end

