-- ==== Sys2Proof/Laws/State.lean ====
section
/-! SUPPORT. What each update of the state leaves in each field: no later proof unfolds a record update. -/

namespace Sys2Proof.Machine

variable (s : State)

-- popInput
@[simp] theorem State.popInput_busy : (s.popInput).busy = s.busy := rfl
@[simp] theorem State.popInput_buf : (s.popInput).buf = s.buf := rfl
@[simp] theorem State.popInput_len : (s.popInput).len = s.len := rfl
@[simp] theorem State.popInput_idx : (s.popInput).idx = s.idx := rfl
@[simp] theorem State.popInput_errValidR : (s.popInput).errValidR = s.errValidR := rfl
@[simp] theorem State.popInput_errCodeR : (s.popInput).errCodeR = s.errCodeR := rfl
@[simp] theorem State.popInput_inputs : (s.popInput).inputs = s.inputs.tail := rfl
@[simp] theorem State.popInput_sent : (s.popInput).sent = s.sent := rfl
@[simp] theorem State.popInput_draws : (s.popInput).draws = s.draws := rfl

-- clearPulse
@[simp] theorem State.clearPulse_busy : (s.clearPulse).busy = s.busy := rfl
@[simp] theorem State.clearPulse_buf : (s.clearPulse).buf = s.buf := rfl
@[simp] theorem State.clearPulse_len : (s.clearPulse).len = s.len := rfl
@[simp] theorem State.clearPulse_idx : (s.clearPulse).idx = s.idx := rfl
@[simp] theorem State.clearPulse_errValidR : (s.clearPulse).errValidR = false := rfl
@[simp] theorem State.clearPulse_errCodeR : (s.clearPulse).errCodeR = s.errCodeR := rfl
@[simp] theorem State.clearPulse_inputs : (s.clearPulse).inputs = s.inputs := rfl
@[simp] theorem State.clearPulse_sent : (s.clearPulse).sent = s.sent := rfl
@[simp] theorem State.clearPulse_draws : (s.clearPulse).draws = s.draws := rfl

-- hold
@[simp] theorem State.hold_busy : (s.hold).busy = s.busy := rfl
@[simp] theorem State.hold_buf : (s.hold).buf = s.buf := rfl
@[simp] theorem State.hold_len : (s.hold).len = s.len := rfl
@[simp] theorem State.hold_idx : (s.hold).idx = s.idx := rfl
@[simp] theorem State.hold_errValidR : (s.hold).errValidR = false := rfl
@[simp] theorem State.hold_errCodeR : (s.hold).errCodeR = s.errCodeR := rfl
@[simp] theorem State.hold_inputs : (s.hold).inputs = s.inputs := rfl
@[simp] theorem State.hold_sent : (s.hold).sent = s.sent := rfl
@[simp] theorem State.hold_draws : (s.hold).draws = s.draws := rfl

-- takeReject
@[simp] theorem State.takeReject_busy (c : RejectCode) : (s.takeReject c).busy = s.busy := rfl
@[simp] theorem State.takeReject_buf (c : RejectCode) : (s.takeReject c).buf = s.buf := rfl
@[simp] theorem State.takeReject_len (c : RejectCode) : (s.takeReject c).len = s.len := rfl
@[simp] theorem State.takeReject_idx (c : RejectCode) : (s.takeReject c).idx = s.idx := rfl
@[simp] theorem State.takeReject_errValidR (c : RejectCode) : (s.takeReject c).errValidR = true := rfl
@[simp] theorem State.takeReject_errCodeR (c : RejectCode) : (s.takeReject c).errCodeR = c.bits := rfl
@[simp] theorem State.takeReject_inputs (c : RejectCode) : (s.takeReject c).inputs = s.inputs := rfl
@[simp] theorem State.takeReject_sent (c : RejectCode) : (s.takeReject c).sent = s.sent := rfl
@[simp] theorem State.takeReject_draws (c : RejectCode) : (s.takeReject c).draws = s.draws := rfl

-- forgetBuf
@[simp] theorem State.forgetBuf_busy : (s.forgetBuf).busy = s.busy := rfl
@[simp] theorem State.forgetBuf_buf : (s.forgetBuf).buf = fillBuf [] s.draws := rfl
@[simp] theorem State.forgetBuf_len : (s.forgetBuf).len = s.len := rfl
@[simp] theorem State.forgetBuf_idx : (s.forgetBuf).idx = s.idx := rfl
@[simp] theorem State.forgetBuf_errValidR : (s.forgetBuf).errValidR = s.errValidR := rfl
@[simp] theorem State.forgetBuf_errCodeR : (s.forgetBuf).errCodeR = s.errCodeR := rfl
@[simp] theorem State.forgetBuf_inputs : (s.forgetBuf).inputs = s.inputs := rfl
@[simp] theorem State.forgetBuf_sent : (s.forgetBuf).sent = s.sent := rfl
@[simp] theorem State.forgetBuf_draws : (s.forgetBuf).draws = s.draws + Config.bufDepth := rfl

-- resetEdge
@[simp] theorem State.resetEdge_busy : (s.resetEdge).busy = false := rfl
@[simp] theorem State.resetEdge_buf : (s.resetEdge).buf = fillBuf [] s.draws := rfl
@[simp] theorem State.resetEdge_len : (s.resetEdge).len = 0 := rfl
@[simp] theorem State.resetEdge_idx : (s.resetEdge).idx = 0 := rfl
@[simp] theorem State.resetEdge_errValidR : (s.resetEdge).errValidR = false := rfl
@[simp] theorem State.resetEdge_errCodeR : (s.resetEdge).errCodeR = 0 := rfl
@[simp] theorem State.resetEdge_inputs : (s.resetEdge).inputs = s.inputs := rfl
@[simp] theorem State.resetEdge_sent : (s.resetEdge).sent = s.sent := rfl
@[simp] theorem State.resetEdge_draws : (s.resetEdge).draws = s.draws + Config.bufDepth := rfl

-- loadFrame
@[simp] theorem State.loadFrame_busy (bs : List Byte) : (s.loadFrame bs).busy = true := rfl
@[simp] theorem State.loadFrame_buf (bs : List Byte) : (s.loadFrame bs).buf = fillBuf bs s.draws := rfl
@[simp] theorem State.loadFrame_len (bs : List Byte) : (s.loadFrame bs).len = BitVec.ofNat 4 bs.length := rfl
@[simp] theorem State.loadFrame_idx (bs : List Byte) : (s.loadFrame bs).idx = 0 := rfl
@[simp] theorem State.loadFrame_errValidR (bs : List Byte) : (s.loadFrame bs).errValidR = false := rfl
@[simp] theorem State.loadFrame_errCodeR (bs : List Byte) : (s.loadFrame bs).errCodeR = s.errCodeR := rfl
@[simp] theorem State.loadFrame_inputs (bs : List Byte) : (s.loadFrame bs).inputs = s.inputs := rfl
@[simp] theorem State.loadFrame_sent (bs : List Byte) : (s.loadFrame bs).sent = s.sent := rfl
@[simp] theorem State.loadFrame_draws (bs : List Byte) : (s.loadFrame bs).draws = s.draws + Config.bufDepth := rfl

-- offerNext
@[simp] theorem State.offerNext_busy (r : Request) : (s.offerNext r).busy = false := rfl
@[simp] theorem State.offerNext_buf (r : Request) : (s.offerNext r).buf = s.buf := rfl
@[simp] theorem State.offerNext_len (r : Request) : (s.offerNext r).len = s.len := rfl
@[simp] theorem State.offerNext_idx (r : Request) : (s.offerNext r).idx = if s.busy then 0 else s.idx := rfl
@[simp] theorem State.offerNext_errValidR (r : Request) : (s.offerNext r).errValidR = s.errValidR := rfl
@[simp] theorem State.offerNext_errCodeR (r : Request) : (s.offerNext r).errCodeR = s.errCodeR := rfl
@[simp] theorem State.offerNext_inputs (r : Request) : (s.offerNext r).inputs = { s.nextInput with rst := false, reqValid := true, req := r } :: s.inputs.tail := rfl
@[simp] theorem State.offerNext_sent (r : Request) : (s.offerNext r).sent = s.sent := rfl
@[simp] theorem State.offerNext_draws (r : Request) : (s.offerNext r).draws = s.draws := rfl

-- transfer: the fields that are the same at every transfer, then those that depend on the last byte
@[simp] theorem State.transfer_len : s.transfer.len = s.len := by
  unfold State.transfer; split <;> rfl
@[simp] theorem State.transfer_errValidR : s.transfer.errValidR = false := by
  unfold State.transfer; split <;> rfl
@[simp] theorem State.transfer_errCodeR : s.transfer.errCodeR = s.errCodeR := by
  unfold State.transfer; split <;> rfl
@[simp] theorem State.transfer_inputs : s.transfer.inputs = s.inputs := by
  unfold State.transfer; split <;> rfl
@[simp] theorem State.transfer_sent : s.transfer.sent = s.sent ++ [⟨s.currentByte, s.atLast⟩] := by
  unfold State.transfer; split <;> rfl
theorem State.transfer_busy : s.transfer.busy = if s.atLast then false else s.busy := by
  unfold State.transfer; split <;> rfl
theorem State.transfer_idx : s.transfer.idx = if s.atLast then 0 else s.idx + 1 := by
  unfold State.transfer; split <;> rfl
theorem State.transfer_buf : s.transfer.buf = if s.atLast then fillBuf [] s.draws else s.buf := by
  unfold State.transfer; split <;> rfl
theorem State.transfer_draws : s.transfer.draws = if s.atLast then s.draws + Config.bufDepth else s.draws := by
  unfold State.transfer; split <;> rfl

end Sys2Proof.Machine
end

