-- ==== Sys2Proof/Laws/Ops.lean ====
section
/-! SUPPORT. One lemma for each shared operation and for the step: everything it can do, said once. -/

namespace Sys2Proof.Machine

/-- The buffer filled with a frame holds it from index 0 on. -/
theorem fillBuf_take (bs : List Byte) (d : Nat) (h : bs.length ≤ Config.bufDepth) :
    (fillBuf bs d).toList.take bs.length = bs := by
  have h' : bs.length ≤ 14 := h
  apply List.ext_getElem
  · simp [fillBuf, Config.bufDepth]; omega
  · intro k h₁ h₂
    simp [fillBuf, List.getD, h₂]

/-- What `answer` can do: an idle block loads the frame or takes the reject, a busy one records nothing. -/
theorem answer_cases (o : BuildOutcome) (s : State) :
    (s.busy = true ∧ answer o s = .next s) ∨
    (∃ bs, s.busy = false ∧ o = .frame bs ∧ answer o s = .next (s.loadFrame bs)) ∨
    (∃ c, s.busy = false ∧ o = .reject c ∧ answer o s = .next (s.takeReject c)) := by
  unfold answer
  cases hb : s.busy <;> cases o <;> simp

theorem answer_frame (bs : List Byte) (s : State) (h : s.busy = false) :
    answer (.frame bs) s = .next (s.loadFrame bs) := by simp [answer, h]

theorem answer_reject (c : RejectCode) (s : State) (h : s.busy = false) :
    answer (.reject c) s = .next (s.takeReject c) := by simp [answer, h]

theorem answer_busy (o : BuildOutcome) (s : State) (h : s.busy = true) : answer o s = .next s := by
  simp [answer, h]

-- the kind of the next edge, from the ports and `busy`
theorem edge_reset (s : State) (h : s.nextInput.rst = true) : s.edge = .reset := by simp [State.edge, h]

theorem edge_accept (s : State) (hb : s.busy = false) (hr : s.nextInput.rst = false)
    (hv : s.nextInput.reqValid = true) : s.edge = .accept s.nextInput.req := by simp [State.edge, hb, hr, hv]

theorem edge_transfer (s : State) (hb : s.busy = true) (hr : s.nextInput.rst = false)
    (ht : s.nextInput.txReady = true) : s.edge = .transfer := by simp [State.edge, hb, hr, ht]

theorem edge_hold (s : State) (hr : s.nextInput.rst = false)
    (h : s.busy = true ∧ s.nextInput.txReady = false ∨ s.busy = false ∧ s.nextInput.reqValid = false) :
    s.edge = .hold := by
  rcases h with ⟨hb, h⟩ | ⟨hb, h⟩ <;> simp [State.edge, hb, hr, h]

/-- The four edges, each with the conditions it happens under (70_reset_and_hazards.md R245). -/
theorem edge_cases (s : State) :
    (s.nextInput.rst = true ∧ s.edge = .reset) ∨
    (s.nextInput.rst = false ∧ s.busy = false ∧ s.nextInput.reqValid = true ∧ s.edge = .accept s.nextInput.req) ∨
    (s.nextInput.rst = false ∧ s.busy = true ∧ s.nextInput.txReady = true ∧ s.edge = .transfer) ∨
    (s.nextInput.rst = false ∧
      (s.busy = true ∧ s.nextInput.txReady = false ∨ s.busy = false ∧ s.nextInput.reqValid = false) ∧
      s.edge = .hold) := by
  cases hr : s.nextInput.rst <;> cases hb : s.busy <;> cases hv : s.nextInput.reqValid <;>
    cases ht : s.nextInput.txReady <;> simp [State.edge, hr, hb, hv, ht]

/-- The two ways a request decodes, beside what Build says of it: an operation whose meaning answers with Build's
outcome, or none, and Build rejects it. -/
theorem decode_build (r : Request) :
    (∃ i, decode r = .ok i ∧ ∀ s, exec i s = answer (build r) s) ∨
    (∃ e, decode r = .error e ∧ build r = .reject .errCmd) := by
  obtain ⟨a, c, w⟩ := r
  by_cases h1 : c = 0x41
  · exact .inl ⟨.handshake a w, by simp [decode, h1], fun s => by
      subst h1
      simp [exec, execHandshake, build, handshakeFrame, wrapBody, xorSum]⟩
  by_cases h2 : c = 0x42
  · exact .inl ⟨.readGross a w, by simp [decode, h2], fun s => by subst h2; rfl⟩
  by_cases h3 : c = 0x43
  · exact .inl ⟨.readTare a w, by simp [decode, h3], fun s => by subst h3; rfl⟩
  by_cases h4 : c = 0x44
  · exact .inl ⟨.readNet a w, by simp [decode, h4], fun s => by subst h4; rfl⟩
  · exact .inr ⟨.illegalCommand c, by simp_all [decode], by simp_all [build]⟩

theorem step_reset (s : State) (h : s.edge = .reset) : step s = .next s.popInput.resetEdge := by
  simp only [step, h]

theorem step_transfer (s : State) (h : s.edge = .transfer) : step s = .next s.popInput.transfer := by
  simp only [step, h]

theorem step_hold (s : State) (h : s.edge = .hold) : step s = .next s.popInput.hold := by
  simp only [step, h]

/-- At an accept edge the step answers the request with Build's outcome. -/
theorem step_accept (s : State) (r : Request) (h : s.edge = .accept r) : step s = answer (build r) s.popInput := by
  simp only [step, h]
  obtain ⟨i, hd, he⟩ | ⟨e, hd, hb⟩ := decode_build r
  · simp only [hd, he]
  · simp only [hd, hb, illegalRequest]

/-- Everything a step can do, with the conditions it does it under. -/
theorem step_cases (s : State) :
    (s.edge = .reset ∧ s.nextInput.rst = true ∧ step s = .next s.popInput.resetEdge) ∨
    (∃ bs, s.edge = .accept s.nextInput.req ∧ s.nextInput.rst = false ∧ s.busy = false ∧
      s.nextInput.reqValid = true ∧ build s.nextInput.req = .frame bs ∧ step s = .next (s.popInput.loadFrame bs)) ∨
    (∃ c, s.edge = .accept s.nextInput.req ∧ s.nextInput.rst = false ∧ s.busy = false ∧
      s.nextInput.reqValid = true ∧ build s.nextInput.req = .reject c ∧ step s = .next (s.popInput.takeReject c)) ∨
    (s.edge = .transfer ∧ s.nextInput.rst = false ∧ s.busy = true ∧ s.nextInput.txReady = true ∧
      step s = .next s.popInput.transfer) ∨
    (s.edge = .hold ∧ s.nextInput.rst = false ∧
      (s.busy = true ∧ s.nextInput.txReady = false ∨ s.busy = false ∧ s.nextInput.reqValid = false) ∧
      step s = .next s.popInput.hold) := by
  obtain ⟨hr, he⟩ | ⟨hr, hb, hv, he⟩ | ⟨hr, hb, ht, he⟩ | ⟨hr, hh, he⟩ := edge_cases s
  · exact .inl ⟨he, hr, step_reset s he⟩
  · have hs := step_accept s _ he
    cases hB : build s.nextInput.req with
    | frame bs =>
      exact .inr (.inl ⟨bs, he, hr, hb, hv, rfl, by rw [hs, hB, answer_frame _ _ (by simpa using hb)]⟩)
    | reject c =>
      exact .inr (.inr (.inl ⟨c, he, hr, hb, hv, rfl, by rw [hs, hB, answer_reject _ _ (by simpa using hb)]⟩))
  · exact .inr (.inr (.inr (.inl ⟨he, hr, hb, ht, step_transfer s he⟩)))
  · exact .inr (.inr (.inr (.inr ⟨he, hr, hh, step_hold s he⟩)))

/-- What Build can answer with a frame: the handshake's, or a weight command's within range. -/
theorem build_frame_cases (r : Request) (bs : List Byte) (h : build r = .frame bs) :
    (r.cmd = 0x41 ∧ bs = wrapBody [r.addr, r.cmd]) ∨
    ((r.cmd = 0x42 ∨ r.cmd = 0x43 ∨ r.cmd = 0x44) ∧ r.weight.toInt.natAbs ≤ 999999 ∧
      bs = wrapBody ([r.addr, r.cmd] ++ payload r.weight.toInt)) := by
  unfold build at h
  split at h
  · cases h
  rename_i hc
  simp only [List.mem_cons, List.not_mem_nil, or_false, not_not] at hc
  split at h
  · split at h
    · cases h
    · cases h
      refine .inr ⟨by tauto, by omega, rfl⟩
  · cases h
    refine .inl ⟨by tauto, rfl⟩

/-- A frame has 6 bytes or 14 (30_encoding.md R77). -/
theorem build_frame_length (r : Request) (bs : List Byte) (h : build r = .frame bs) :
    bs.length = 6 ∨ bs.length = 14 := by
  obtain ⟨-, rfl⟩ | ⟨-, -, rfl⟩ := build_frame_cases r bs h
  · left; rfl
  · right; rfl

/-- Loading a frame of Build's: every defined field of the result. -/
theorem loadFrame_loads (r : Request) (bs : List Byte) (s : State) (h : build r = .frame bs) :
    LoadsFrame bs s (s.loadFrame bs) := by
  have hl := build_frame_length r bs h
  have hn : (BitVec.ofNat 4 bs.length).toNat = bs.length := by rcases hl with h | h <;> simp [h]
  refine ⟨rfl, ?_, hn, rfl, rfl, rfl, rfl, rfl⟩
  show (fillBuf bs s.draws).toList.take (BitVec.ofNat 4 bs.length).toNat = bs
  rw [hn]
  exact fillBuf_take bs s.draws (by rcases hl with h | h <;> simp [h, Config.bufDepth])

end Sys2Proof.Machine
end

