-- ==== Sys2Proof/Laws/Frame.lean ====
section
/-! SUPPORT. The shape of frames and of what the sink sees of them: byte by byte forms, character facts, and the
frame held as a list. -/

namespace Sys2Proof.Machine

theorem xorSum_cons (b : Byte) (bs : List Byte) : xorSum (b :: bs) = b ^^^ xorSum bs := by
  have fold : ∀ (l : List Byte) (a : Byte), l.foldl (fun acc c => acc ^^^ c) a = a ^^^ xorSum l := by
    intro l
    induction l with
    | nil => intro a; simp [xorSum]
    | cons c l ih =>
      intro a
      rw [xorSum, List.foldl_cons, List.foldl_cons, ih, ih (0 ^^^ c)]
      simp [BitVec.xor_assoc]
  rw [xorSum, List.foldl_cons, fold]
  simp

/-- The handshake frame byte by byte. -/
theorem wrapBody_handshake (a c : Byte) :
    wrapBody [a, c] = [0x02, a, c, nibbleChar (highNibble (xorSum [a, c])), nibbleChar (lowNibble (xorSum [a, c])),
      0x03] := rfl

/-- A weight frame byte by byte. -/
theorem wrapBody_weight (a c : Byte) (w : Int) :
    wrapBody ([a, c] ++ payload w) =
      [0x02, a, c, signChar w, digitChar (magnitude w) 100000, digitChar (magnitude w) 10000,
        digitChar (magnitude w) 1000, digitChar (magnitude w) 100, digitChar (magnitude w) 10,
        digitChar (magnitude w) 1, 0x32, nibbleChar (highNibble (xorSum ([a, c] ++ payload w))),
        nibbleChar (lowNibble (xorSum ([a, c] ++ payload w))), 0x03] := rfl

/-- A digit character's code. -/
theorem digitChar_toNat (mag p : Nat) : (digitChar mag p).toNat = 0x30 + mag / p % 10 := by
  have : mag / p % 10 < 10 := Nat.mod_lt _ (by decide)
  simp only [digitChar, charZero, BitVec.toNat_add, BitVec.toNat_ofNat]
  simp
  omega

/-- The sign is one of two characters. -/
theorem signChar_cases (w : Int) : (0 ≤ w ∧ signChar w = 0x2B) ∨ (w < 0 ∧ signChar w = 0x2D) := by
  unfold signChar
  split
  · exact .inl ⟨‹_›, rfl⟩
  · exact .inr ⟨by omega, rfl⟩

@[simp] theorem asTransfers_length (bs : List Byte) : (asTransfers bs).length = bs.length := by
  induction bs using asTransfers.induct <;> simp_all [asTransfers]

/-- The k-th transfer of a frame: its k-th byte, marked last at the last index alone. -/
theorem asTransfers_getElem (bs : List Byte) (k : Nat) (h : k < bs.length) :
    (asTransfers bs)[k]'(by rw [asTransfers_length]; exact h) = ⟨bs[k], k + 1 == bs.length⟩ := by
  induction bs using asTransfers.induct generalizing k with
  | case1 => simp at h
  | case2 b => simp at h; subst h; simp [asTransfers]
  | case3 b c bs ih =>
    cases k with
    | zero => simp [asTransfers]
    | succ k =>
      simp only [asTransfers, List.getElem_cons_succ]
      rw [ih k (by simpa using h)]
      simp

/-- A transfer that is not the last leaves the frame held. -/
theorem heldFrame_transfer {s : State} (h : s.atLast = false) : s.transfer.heldFrame = s.heldFrame := by
  simp [State.heldFrame, State.transfer_buf, h]

/-- The frame held has `len` bytes. -/
theorem State.Inv.heldFrame_length {s : State} (hi : s.Inv) (hb : s.busy = true) :
    s.heldFrame.length = s.len.toNat := by
  rcases hi.busyLen hb with h | h <;> simp [State.heldFrame, h, Config.bufDepth]

/-- `idx + 1` does not wrap while a frame is held. -/
theorem State.Inv.idx_succ {s : State} (hi : s.Inv) (hb : s.busy = true) :
    (s.idx + 1).toNat = s.idx.toNat + 1 := by
  have h1 := hi.busyIdx hb
  rw [BitVec.toNat_add]
  rcases hi.busyLen hb with h | h <;> simp [h] at h1 <;> simp <;> omega

/-- The current byte is the frame's byte at `idx`. -/
theorem State.Inv.currentByte_eq {s : State} (hi : s.Inv) (hb : s.busy = true) :
    ∃ h : s.idx.toNat < s.heldFrame.length, s.currentByte = s.heldFrame[s.idx.toNat] := by
  have h1 := hi.busyIdx hb
  have h2 := hi.heldFrame_length hb
  refine ⟨by omega, ?_⟩
  have : s.idx.toNat < 14 := by
    rcases hi.busyLen hb with h | h <;> simp [h] at h1 <;> omega
  simp [State.currentByte, State.heldFrame, Config.bufDepth, this]

/-- Using up an input keeps the invariant. -/
theorem State.Inv.popInput {s : State} (h : s.Inv) : s.popInput.Inv :=
  ⟨h.busyFrame, h.busyLen, h.busyIdx, h.idleIdx, h.code, h.pulse⟩

end Sys2Proof.Machine
end

