-- ==== Sys2Proof/Laws/HostSide.lean ====
section
/-! SUPPORT. What reading inbound frames can do: bytes that no terminator has ended yet are no frame, and a
terminated frame comes before the frames of the bytes after it. -/

namespace Sys2Proof.Machine

/-- Bytes without a terminator make no frame, whatever was read before them. -/
theorem inboundFramesFrom_unterminated (acc rest : List Byte) (h : (0x03 : Byte) ∉ rest) :
    inboundFramesFrom acc rest = [] := by
  induction rest generalizing acc with
  | nil => rfl
  | cons b bs ih =>
    obtain ⟨hb, hbs⟩ := not_or.mp (mt List.mem_cons.mpr h)
    rw [inboundFramesFrom, if_neg fun e => hb e.symm, ih _ hbs]

/-- A frame's bytes and its terminator make one frame, and the bytes after them the frames after it. -/
theorem inboundFramesFrom_terminated (acc body rest : List Byte) (h : (0x03 : Byte) ∉ body) :
    inboundFramesFrom acc (body ++ 0x03 :: rest) = (acc ++ body) :: inboundFramesFrom [] rest := by
  induction body generalizing acc with
  | nil => simp [inboundFramesFrom, endMarker]
  | cons b bs ih =>
    obtain ⟨hb, hbs⟩ := not_or.mp (mt List.mem_cons.mpr h)
    rw [List.cons_append, inboundFramesFrom, if_neg fun e => hb e.symm, ih _ hbs]
    simp

end Sys2Proof.Machine
end

