-- ==== Sys2Proof/Laws/PerInstr.lean ====
section
/-! SUPPORT. Per-instruction facts of the encoding, one lemma per constructor: family WordFields, the three
fields of an operation's request word (30_encoding.md R65). -/

namespace Sys2Proof.Laws

/-- The fields of a request's word are the request's (30_encoding.md R65). -/
theorem ofWord_toWord (r : Request) : Request.ofWord r.toWord = r := by
  obtain ⟨a, c, w⟩ := r
  simp only [Request.ofWord, Request.toWord]
  congr 1 <;>
    (apply BitVec.eq_of_getLsbD_eq; intro k hk; rw [BitVec.getLsbD_extractLsb']
     erw [BitVec.getLsbD_append, BitVec.getLsbD_append]) <;>
    grind

end Sys2Proof.Laws

namespace Sys2Proof.Laws.WordFields

/-- Bits [7:0] of the word hold the address, [15:8] the command byte, [47:16] the weight. -/
def Statement (i : Instr) : Prop :=
  (encode i).extractLsb' 0 8 = i.addr ∧ (encode i).extractLsb' 8 8 = i.command ∧
    (encode i).extractLsb' 16 32 = i.weight

theorem of_ofWord (i : Instr) : Statement i := by
  have h := ofWord_toWord i.request
  exact ⟨congrArg Request.addr h, congrArg Request.cmd h, congrArg Request.weight h⟩

theorem handshake (addr : Byte) (weight : Weight) : Statement (.handshake addr weight) := of_ofWord _

theorem readGross (addr : Byte) (weight : Weight) : Statement (.readGross addr weight) := of_ofWord _

theorem readTare (addr : Byte) (weight : Weight) : Statement (.readTare addr weight) := of_ofWord _

theorem readNet (addr : Byte) (weight : Weight) : Statement (.readNet addr weight) := of_ofWord _

end Sys2Proof.Laws.WordFields
end

