-- ==== Sys2Proof/Tests/Slice0.lean ====
section
/-! SUPPORT. The model's own tests, with expected results from spec/95_test_vectors.md and the rules named, and for
every statement with hypotheses a concrete state and operands that meet them all. -/

namespace Sys2Proof.Machine.Tests

/-! Well-formedness: the one check, with ill-formed terms it refuses (30_encoding.md R69). -/

theorem test_wellFormed_accepts : Request.wellFormed ⟨0x31, 0x44, 7015⟩ = true := by decide

theorem test_wellFormed_refuses_alias_byte : Request.wellFormed ⟨0x31, 0x53, 0⟩ = false := by decide

theorem test_wellFormed_refuses_lower_case : Request.wellFormed ⟨0x31, 0x61, 0⟩ = false := by decide

theorem test_wellFormed_refuses_below_and_above :
    Request.wellFormed ⟨0x31, 0x40, 0⟩ = false ∧ Request.wellFormed ⟨0x31, 0x45, 0⟩ = false := by decide

/-! Decoding: a word of each constructor written out from 30_encoding.md R65 and R68 (words of 95 2.3). -/

theorem test_decode_handshake_bits :
    decodeWord 0b00000000000000000000000000000000_01000001_00110001 = .ok (.handshake 0x31 0) := by rfl

theorem test_decode_readGross_bits :
    decodeWord 0b00000000000000011110001001000000_01000010_00110001 = .ok (.readGross 0x31 123456) := by rfl

theorem test_decode_readTare_bits :
    decodeWord 0b11111111111111111111111100101001_01000011_00110001 = .ok (.readTare 0x31 (-215)) := by rfl

theorem test_decode_readNet_bits :
    decodeWord 0b00000000000000000001101101100111_01000100_00110001 = .ok (.readNet 0x31 7015) := by rfl

theorem test_decode_refuses_bit7 : decodeWord 0x00000000C131 = .error (.illegalCommand 0xC1) := by rfl

theorem test_decodeTableWord_short : decodeTableWord 16 0x4231 = some (.readGross 0x31 0) := by rfl

theorem test_encode_readNet : encode (.readNet 0x31 7015) = 0x00001B674431 := by decide

/-! Small states. -/

/-- An idle block before these inputs. -/
def idleWith (inputs : List EdgeInput) : State := { State.reset with inputs := inputs }

/-- An edge that offers `r`. -/
def offering (r : Request) : EdgeInput := { EdgeInput.quiet with reqValid := true, req := r }

/-- An edge at which the sink takes a byte. -/
def taking : EdgeInput := { EdgeInput.quiet with txReady := true }

/-- An edge with `rst` = 1, a request and a ready sink. -/
def resetting : EdgeInput := ⟨true, true, ⟨0x31, 0x41, 0⟩, true⟩

/-- The frame of vector FB-1. -/
def fb1 : List Byte := [0x02, 0x31, 0x41, 0x37, 0x30, 0x03]

/-- The block at index `k` of FB-1, with the bytes before it taken. -/
def sending (k : Nat) (inputs : List EdgeInput) : State where
  busy := true
  buf := ⟨#[0x02, 0x31, 0x41, 0x37, 0x30, 0x03, 0, 0, 0, 0, 0, 0, 0, 0], rfl⟩
  len := 6
  idx := BitVec.ofNat 4 k
  errValidR := false
  errCodeR := 0b01
  inputs := inputs
  sent := (asTransfers fb1).take k
  draws := 14

/-- The status of the next state, if a step answers one. -/
def statusOf : Host.Outcome State Fault Refusal → Option (Bool × BitVec 2 × Bool)
  | .next t => some (t.errValidR, t.errCodeR, t.busy)
  | _ => none

/-- The frame held in the next state, if a step answers one. -/
def frameOf : Host.Outcome State Fault Refusal → Option (List Byte)
  | .next t => if t.busy then some t.heldFrame else none
  | _ => none

/-! The operations, one step each (95_test_vectors.md 2.3). -/

theorem test_handshake_FB2 :
    frameOf (exec (.handshake 0x41 0) State.reset) = some [0x02, 0x41, 0x41, 0x30, 0x30, 0x03] := by decide

theorem test_handshake_FB7_ignores_weight :
    frameOf (exec (.handshake 0x31 0x80000000) State.reset) = some fb1 := by decide

theorem test_readGross_FB12 :
    frameOf (exec (.readGross 0x31 (-999999)) State.reset) =
      some [0x02, 0x31, 0x42, 0x2D, 0x39, 0x39, 0x39, 0x39, 0x39, 0x39, 0x32, 0x36, 0x43, 0x03] := by decide

theorem test_readGross_FB16_most_negative :
    statusOf (exec (.readGross 0x31 0x80000000) State.reset) = some (true, 0b10, false) := by decide

theorem test_readTare_FB17 :
    frameOf (exec (.readTare 0x31 (-215)) State.reset) =
      some [0x02, 0x31, 0x43, 0x2D, 0x30, 0x30, 0x30, 0x32, 0x31, 0x35, 0x32, 0x36, 0x42, 0x03] := by decide

theorem test_readTare_one_past_bound :
    statusOf (exec (.readTare 0x31 1000000) State.reset) = some (true, 0b10, false) := by decide

theorem test_readNet_FB21 :
    frameOf (exec (.readNet 0x31 7015) State.reset) =
      some [0x02, 0x31, 0x44, 0x2B, 0x30, 0x30, 0x37, 0x30, 0x31, 0x35, 0x32, 0x36, 0x46, 0x03] := by decide

theorem test_readNet_FB24 :
    frameOf (exec (.readNet 0x31 (-1)) State.reset) =
      some [0x02, 0x31, 0x44, 0x2D, 0x30, 0x30, 0x30, 0x30, 0x30, 0x31, 0x32, 0x36, 0x42, 0x03] := by decide

/-! The step (95_test_vectors.md 2.3 and 2.5). -/

theorem test_step_FB31_illegal_command_wins :
    statusOf (step (idleWith [offering ⟨0x31, 0x45, 1000000⟩])) = some (true, 0b01, false) := by decide

theorem test_step_placed_word_runs :
    frameOf (step (State.reset.withFetchWord 48 0x00001B674431)) =
      some [0x02, 0x31, 0x44, 0x2B, 0x30, 0x30, 0x37, 0x30, 0x31, 0x35, 0x32, 0x36, 0x46, 0x03] := by decide

/-- The byte taken, and whether the block is still busy and at which index. -/
def takenOf : Host.Outcome State Fault Refusal → Option (Option Transfer × Bool × BitVec 4)
  | .next t => some (t.sent.getLast?, t.busy, t.idx)
  | _ => none

theorem test_step_transfer_first : takenOf (step (sending 0 [taking])) = some (some ⟨0x02, false⟩, true, 1) := by
  decide

theorem test_step_transfer_last : takenOf (step (sending 5 [taking])) = some (some ⟨0x03, true⟩, false, 0) := by
  decide

theorem test_step_reset_beats_transfer :
    takenOf (step (sending 4 [resetting])) = some (some ⟨0x37, false⟩, false, 0) := by decide

theorem test_step_reset_clears_code : statusOf (step (sending 4 [resetting])) = some (false, 0, false) := by decide

theorem test_step_hold_drops_pulse :
    statusOf (step { idleWith [] with errValidR := true, errCodeR := 0b10 }) = some (false, 0b10, false) := by decide

/-! The Checksum Unit (95_test_vectors.md 2.1, 2.2). -/

theorem test_xorSum_CS7 : xorSum [0x31, 0x44, 0x2B, 0x30, 0x30, 0x37, 0x30, 0x31, 0x35, 0x32] = 0x6F := by decide

theorem test_checksumChars_CC6_CC7 :
    checksumChars 0x9A = (0x39, 0x41) ∧ checksumChars 0xA9 = (0x41, 0x39) := by decide

/-! Host dispatch (95_test_vectors.md 2.4). -/

/-- The store and parameters of 95_test_vectors.md 2.4. -/
def store : Store := ⟨⟨123456, 2⟩, ⟨-215, 2⟩, ⟨7015, 2⟩⟩

def params : HostParams := ⟨0x31, 0, 1000000, by decide, false⟩

theorem test_dispatch_HD2_to_HD6 :
    HostParams.offers (fun _ => (params, store)) ([0x02, 0x31, 0x42, 0x03] ++ [0x02, 0x31, 0x43, 0x03] ++
      [0x02, 0x31, 0x44, 0x03] ++ [0x53, 0x49, 0x03] ++ [0x53, 0x49, 0x42, 0x03]) =
      [⟨0x31, 0x42, 123456⟩, ⟨0x31, 0x43, -215⟩, ⟨0x31, 0x44, 7015⟩, ⟨0x31, 0x44, 7015⟩, ⟨0x31, 0x44, 7015⟩] := by
  decide

theorem test_dispatch_HD7_HD8_no_response :
    (inboundBytes [0x02, 0x31, 0x45, 0x03]).map (params.reply store) = some [] ∧
      params.offered store [0x02, 0x31, 0x03] = none := by decide

/-- A sequence that no 0x03 terminates is no inbound frame (42_request_dispatch.md R151). -/
theorem test_dispatch_waits_for_terminator : params.offered store [0x02, 0x31, 0x42] = none := by decide

theorem test_reading_truncates : (Reading.mk 1159 3).hundredths = 115 ∧ (Reading.mk (-1159) 3).hundredths = -115 ∧
    (Reading.mk (-4) 3).hundredths = 0 := by decide

/-! Witnesses: for each statement with hypotheses, a state and operands that meet them all. -/

theorem witness_ResetEdgeTakesResetValues : (sending 4 [resetting]).nextInput.rst = true := by decide

theorem sending_inv (k : Nat) (h : k < 6) (inputs : List EdgeInput) : (sending k inputs).Inv where
  busyFrame _ := ⟨⟨0x31, 0x41, 0⟩, rfl⟩
  busyLen _ := .inl rfl
  busyIdx _ := by simp [sending]; omega
  idleIdx h := by cases h
  code := by simp [sending]
  pulse h := by cases h

theorem sending_wireRecord (k : Nat) (h : k < 6) (inputs : List EdgeInput) : (sending k inputs).WireRecord := by
  intro _
  refine ⟨[], ?_⟩
  have : (BitVec.ofNat 4 k).toNat = k := by simp; omega
  show (asTransfers fb1).take k = (asTransfers fb1).take (BitVec.ofNat 4 k).toNat
  rw [this]

theorem idleWith_inv (inputs : List EdgeInput) : (idleWith inputs).Inv := by
  constructor <;> simp [idleWith, State.reset]

theorem idleWith_wireRecord (inputs : List EdgeInput) : (idleWith inputs).WireRecord := by
  intro h; simp [idleWith, State.reset] at h

theorem witness_StepKeepsBlockInvariant :
    (sending 5 [taking]).Inv ∧ ∃ t, step (sending 5 [taking]) = .next t :=
  ⟨sending_inv 5 (by decide) _, _, rfl⟩

theorem witness_StepKeepsWireRecord :
    (sending 4 [taking]).Inv ∧ (sending 4 [taking]).WireRecord ∧ ∃ t, step (sending 4 [taking]) = .next t :=
  ⟨sending_inv 4 (by decide) _, sending_wireRecord 4 (by decide) _, _, rfl⟩

theorem witness_DecodeAndEncodeAgree :
    (Instr.handshake 0x02 0xFFFFFFFF).wellFormed = true ∧
      decodeWord 0xFFFFFFFF4102 = .ok (.handshake 0x02 0xFFFFFFFF) := ⟨rfl, rfl⟩

theorem witness_CommandByteSelectsOperation :
    decode ⟨0x31, 0x41, 0⟩ = .ok (.handshake 0x31 0) ∧ decode ⟨0x31, 0x42, 0⟩ = .ok (.readGross 0x31 0) ∧
      decode ⟨0x31, 0x43, 0⟩ = .ok (.readTare 0x31 0) ∧ decode ⟨0x31, 0x44, 0⟩ = .ok (.readNet 0x31 0) ∧
      decode ⟨0x31, 0x40, 0⟩ = .error (.illegalCommand 0x40) ∧
      decode ⟨0x31, 0x45, 0⟩ = .error (.illegalCommand 0x45) := ⟨rfl, rfl, rfl, rfl, rfl, rfl⟩

/-- An idle block, one edge before it accepts `READ_NET '1', 70.15`. -/
def accepting : State := idleWith [offering ⟨0x31, 0x44, 7015⟩]

theorem witness_StepRunsDecodedRequest :
    accepting.busy = false ∧ accepting.nextInput.rst = false ∧ accepting.nextInput.reqValid = true ∧
      decode accepting.nextInput.req = .ok (.readNet 0x31 7015) := ⟨rfl, rfl, rfl, rfl⟩

theorem witness_PlacedWordRunsNext :
    (0x00001B674431 : Nat) < 2 ^ 48 ∧ decodeTableWord 48 0x00001B674431 = some (.readNet 0x31 7015) :=
  ⟨by decide, rfl⟩

theorem witness_HandshakeLoadsItsFrame : State.reset.busy = false := rfl

theorem witness_WeightCommandsLoadTheirFrames :
    State.reset.busy = false ∧ (999999 : Weight).toInt.natAbs ≤ 999999 ∧
      (-999999 : Weight).toInt.natAbs ≤ 999999 := by decide

theorem witness_OverRangeWeightsAreRejected :
    State.reset.busy = false ∧ 999999 < (1000000 : Weight).toInt.natAbs ∧
      999999 < (-1000000 : Weight).toInt.natAbs ∧ 999999 < (0x80000000 : Weight).toInt.natAbs ∧
      (999999 : Weight).toInt.natAbs ≤ 999999 := by decide

theorem witness_IllegalCommandsAreRejected :
    (idleWith [offering ⟨0x31, 0x45, 1000000⟩]).busy = false ∧
      (idleWith [offering ⟨0x31, 0x45, 1000000⟩]).nextInput.rst = false ∧
      (idleWith [offering ⟨0x31, 0x45, 1000000⟩]).nextInput.reqValid = true ∧
      (idleWith [offering ⟨0x31, 0x45, 1000000⟩]).nextInput.req.cmd ∉ ([0x41, 0x42, 0x43, 0x44] : List Byte) := by
  decide

theorem witness_AcceptEdgeFollowsBuild :
    accepting.busy = false ∧ accepting.nextInput.rst = false ∧ accepting.nextInput.reqValid = true ∧
      (∃ bs, build accepting.nextInput.req = .frame bs) ∧
      build (idleWith [offering ⟨0x31, 0x42, 1000000⟩]).nextInput.req = .reject .errRange :=
  ⟨rfl, rfl, rfl, ⟨_, rfl⟩, rfl⟩

theorem witness_StatusUpdatesOnlyOnReject :
    (idleWith [offering ⟨0x31, 0x53, 0⟩]).nextInput.rst = false ∧
      (∃ t, step (idleWith [offering ⟨0x31, 0x53, 0⟩]) = .next t) ∧
      build (idleWith [offering ⟨0x31, 0x53, 0⟩]).nextInput.req = .reject .errCmd ∧
      (sending 0 [taking]).nextInput.rst = false ∧ (sending 0 [taking]).busy = true ∧
      ∃ t, step (sending 0 [taking]) = .next t := ⟨rfl, ⟨_, rfl⟩, rfl, rfl, rfl, _, rfl⟩

theorem witness_TransferTakesOneByte :
    (sending 5 [taking]).Inv ∧ (sending 5 [taking]).nextInput.rst = false ∧ (sending 5 [taking]).busy = true ∧
      (sending 5 [taking]).nextInput.txReady = true ∧
      (sending 5 [taking]).idx.toNat = (sending 5 [taking]).len.toNat - 1 ∧
      (sending 4 [taking]).Inv ∧ (sending 4 [taking]).idx.toNat ≠ (sending 4 [taking]).len.toNat - 1 :=
  ⟨sending_inv 5 (by decide) _, rfl, rfl, rfl, rfl, sending_inv 4 (by decide) _, by decide⟩

theorem witness_HoldKeepsEverything :
    ((sending 5 []).nextInput.rst = false ∧ (sending 5 []).busy = true ∧ (sending 5 []).nextInput.txReady = false) ∧
      ((idleWith [taking]).nextInput.rst = false ∧ (idleWith [taking]).busy = false ∧
        (idleWith [taking]).nextInput.reqValid = false) := by decide

theorem witness_UnacceptedRequestsLeaveNoTrace :
    (sending 0 []).busy = true ∧ resetting.rst = true ∧ taking.reqValid = false := by decide

theorem witness_XorSumLaws : ([0x01, 0x02] : List Byte).Perm [0x02, 0x01] := by decide

theorem witness_ChecksumReadsBack :
    charNibble 0x30 = some 0 ∧ charNibble 0x39 = some 9 ∧ charNibble 0x41 = some 10 ∧ charNibble 0x46 = some 15 ∧
      charNibble 0x2F = none ∧ charNibble 0x3A = none ∧ charNibble 0x40 = none ∧ charNibble 0x47 = none ∧
      build ⟨0x31, 0x41, 0⟩ = .frame fb1 := by decide

/-- A framed request of each length, and one with a marker value for its address. -/
theorem witness_FramePositionsHoldTheirValues :
    build ⟨0x03, 0x41, 0⟩ = .frame [0x02, 0x03, 0x41, 0x34, 0x32, 0x03] ∧
      ∃ bs, build ⟨0x31, 0x42, 0⟩ = .frame bs ∧ bs.length = 14 := ⟨rfl, _, rfl, rfl⟩

theorem witness_WeightReadsBackFromFrame :
    ∃ bs, build ⟨0x31, 0x42, -999999⟩ = .frame bs ∧ (0x42 : Byte) ≠ 0x41 := ⟨_, rfl, by decide⟩

theorem witness_CommandsDifferInCommandAndChecksum :
    (0x42 : Byte) ≠ 0x43 ∧ (0x42 : Byte) ≠ 0x41 ∧ (0x43 : Byte) ≠ 0x41 ∧
      (∃ bs, build ⟨0x31, 0x42, 7015⟩ = .frame bs) ∧ ∃ cs, build ⟨0x31, 0x43, 7015⟩ = .frame cs :=
  ⟨by decide, by decide, by decide, ⟨_, rfl⟩, _, rfl⟩

theorem witness_FrameDeterminesRequest :
    ∃ bs, build ⟨0x31, 0x41, 1⟩ = .frame bs ∧ build ⟨0x31, 0x41, 2⟩ = .frame bs := ⟨fb1, rfl, rfl⟩

theorem witness_ByteStreamIsAcceptedFrames :
    (sending 5 [taking, offering ⟨0x31, 0x44, 7015⟩]).Inv ∧
      (sending 5 [taking, offering ⟨0x31, 0x44, 7015⟩]).noReset 2 ∧
      ∃ t, run 2 (sending 5 [taking, offering ⟨0x31, 0x44, 7015⟩]) = .next t := by
  refine ⟨sending_inv 5 (by decide) _, ?_, _, rfl⟩
  intro e he
  simp [sending, taking, offering, EdgeInput.quiet] at he
  rcases he with rfl | rfl <;> rfl

/-- The last byte of a frame is taken, and a request that Build rejects is offered at the edge after it. -/
theorem witness_RejectFollowsEarlierFrames :
    (sending 5 [taking, offering ⟨0x31, 0x45, 0⟩]).Inv ∧ (sending 5 [taking, offering ⟨0x31, 0x45, 0⟩]).noReset 1 ∧
      ∃ t, run 1 (sending 5 [taking, offering ⟨0x31, 0x45, 0⟩]) = .next t ∧ t.busy = false ∧
        t.nextInput.rst = false ∧ t.nextInput.reqValid = true ∧ build t.nextInput.req = .reject .errCmd := by
  refine ⟨sending_inv 5 (by decide) _, ?_, _, rfl, rfl, rfl, rfl, rfl⟩
  intro e he
  simp [sending] at he
  subst he
  rfl

/-- The block before it accepts FB-1's request, and the sink ready at the six edges after that. -/
def timed : State := idleWith (offering ⟨0x31, 0x41, 0⟩ :: List.replicate 6 taking)

theorem witness_FrameTakesOneEdgePerByte :
    timed.busy = false ∧ timed.nextInput.rst = false ∧ timed.nextInput.reqValid = true ∧
      build timed.nextInput.req = .frame fb1 ∧
      (∀ e ∈ (timed.inputs.drop 1).take fb1.length, e.rst = false ∧ e.txReady = true) ∧
      fb1.length < timed.inputs.length ∧ 6 ≤ fb1.length := by decide

theorem witness_FrameCompletesAsSinkTakes :
    (sending 4 [taking, EdgeInput.quiet, taking]).Inv ∧ (sending 4 [taking, EdgeInput.quiet, taking]).busy = true ∧
      (sending 4 [taking, EdgeInput.quiet, taking]).noReset 3 ∧
      (sending 4 [taking, EdgeInput.quiet, taking]).len.toNat -
          (sending 4 [taking, EdgeInput.quiet, taking]).idx.toNat ≤
        (((sending 4 [taking, EdgeInput.quiet, taking]).inputs.take 3).filter (fun e => e.txReady)).length := by
  refine ⟨sending_inv 4 (by decide) _, rfl, ?_, by decide⟩
  intro e he
  simp [sending, taking, EdgeInput.quiet] at he
  rcases he with rfl | rfl | rfl <;> rfl

/-- One edge before the last byte is taken, and one at which the frame stays held. -/
theorem witness_HeldFrameIsContiguous :
    (sending 5 [taking]).Inv ∧ (sending 5 [taking]).busy = true ∧ (sending 5 [taking]).nextInput.rst = false ∧
      (∃ t, step (sending 5 [taking]) = .next t ∧ t.busy = false) ∧
      (sending 0 []).Inv ∧ (sending 0 []).nextInput.rst = false ∧ ∃ t, step (sending 0 []) = .next t ∧ t.busy = true :=
  ⟨sending_inv 5 (by decide) _, rfl, rfl, ⟨_, rfl, rfl⟩, sending_inv 0 (by decide) _, rfl, _, rfl, rfl⟩

theorem witness_ResetCutsFrameToAPart :
    (sending 4 [resetting]).Inv ∧ (sending 4 [resetting]).WireRecord ∧ (sending 4 [resetting]).busy = true ∧
      (sending 4 [resetting]).nextInput.rst = true :=
  ⟨sending_inv 4 (by decide) _, sending_wireRecord 4 (by decide) _, rfl, rfl⟩

/-- Two blocks that differ in the status alone, before a request that both reject. -/
theorem witness_StatusIsReadByNothing :
    SameButStatus (idleWith [offering ⟨0x31, 0x45, 0⟩])
        { idleWith [offering ⟨0x31, 0x45, 0⟩] with errValidR := true, errCodeR := 0b10 } ∧
      (∃ t, step (idleWith [offering ⟨0x31, 0x45, 0⟩]) = .next t ∧ t.errValidR = true) ∧
      ∃ t, step { idleWith [offering ⟨0x31, 0x45, 0⟩] with errValidR := true, errCodeR := 0b10 } = .next t :=
  ⟨⟨rfl, rfl, rfl, rfl, rfl, rfl, rfl⟩, ⟨_, rfl, rfl⟩, _, rfl⟩

/-- Two blocks that differ in a buffer entry past the frame and in the draws. -/
theorem witness_UndefinedEntriesAreNeverSeen :
    (sending 3 [taking]).Inv ∧
      SameDefined (sending 3 [taking])
        { sending 3 [taking] with
          buf := ⟨#[0x02, 0x31, 0x41, 0x37, 0x30, 0x03, 9, 9, 9, 9, 9, 9, 9, 9], rfl⟩, draws := 0 } ∧
      (∃ t, step (sending 3 [taking]) = .next t) ∧
      ∃ t, step { sending 3 [taking] with
        buf := ⟨#[0x02, 0x31, 0x41, 0x37, 0x30, 0x03, 9, 9, 9, 9, 9, 9, 9, 9], rfl⟩, draws := 0 } = .next t :=
  ⟨sending_inv 3 (by decide) _, ⟨rfl, rfl, rfl, rfl, rfl, rfl, rfl, fun _ => by decide⟩, ⟨_, rfl⟩, _, rfl⟩

theorem witness_ConsecutiveRejectsKeepPulse :
    (idleWith [offering ⟨0x31, 0x45, 0⟩, offering ⟨0x31, 0x42, 1000000⟩]).busy = false ∧
      (offering ⟨0x31, 0x45, 0⟩).rst = false ∧ (offering ⟨0x31, 0x45, 0⟩).reqValid = true ∧
      build (offering ⟨0x31, 0x45, 0⟩).req = .reject .errCmd ∧
      (offering ⟨0x31, 0x42, 1000000⟩).rst = false ∧ (offering ⟨0x31, 0x42, 1000000⟩).reqValid = true ∧
      build (offering ⟨0x31, 0x42, 1000000⟩).req = .reject .errRange := by decide

theorem witness_ShortInboundOffersNothing :
    inboundBytes [0x02, 0x31, 0x03] = some [0x02, 0x31] ∧ ([0x02, 0x31] : List Byte).length < 3 ∧
      ¬ (([0x02, 0x31] : List Byte)[0]? = some 0x53 ∧ ([0x02, 0x31] : List Byte)[1]? = some 0x49) ∧
      (0x03 : Byte) ∉ ([0x02, 0x31, 0x42] : List Byte) := by decide

/-- Two frames and the beginning of a third. -/
theorem witness_RequestsFollowInboundFrames :
    (∀ body ∈ ([[0x02, 0x31, 0x41], [0x53, 0x49]] : List (List Byte)), (0x03 : Byte) ∉ body) ∧
      (0x03 : Byte) ∉ ([0x02, 0x31, 0x42] : List Byte) := by decide

theorem witness_DispatchReadsIndicesOneAndTwo :
    ¬ ((0x02 : Byte) = 0x53 ∧ (0x31 : Byte) = 0x49) ∧ (0x45 : Byte) ∉ ([0x41, 0x42, 0x43, 0x44] : List Byte) ∧
      (0x40 : Byte) ∉ ([0x41, 0x42, 0x43, 0x44] : List Byte) := by decide

theorem witness_ReadingsTruncateTowardZero :
    (Reading.mk 2147483647 2).hundredths < 2 ^ 31 ∧ -(2 ^ 31) ≤ (Reading.mk (-2147483648) 2).hundredths ∧
      ¬ (-(2 ^ 31) ≤ (Reading.mk 2147483648 2).hundredths ∧ (Reading.mk 2147483648 2).hundredths < 2 ^ 31) ∧
      (Reading.mk 7015 2).places = 2 ∧
      (0x42 : Byte) ∈ ([0x42, 0x43, 0x44] : List Byte) := by decide

end Sys2Proof.Machine.Tests
end

/-! Proofs about the reset edge and the outputs of an idle block (10_state.md R28, R36). -/

namespace Sys2Proof.Machine

/-- Reset comes before the three other updates of an edge (70_reset_and_hazards.md R245), so `rst` alone decides. -/
theorem step_of_rst (s : State) (h : s.nextInput.rst = true) : step s = .next s.popInput.resetEdge :=
  step_reset s (edge_reset s h)

theorem State.reqReady_of_idle {s : State} (h : s.busy = false) : s.reqReady = true := by
  simp [State.reqReady, h]

theorem State.txValid_of_idle {s : State} (h : s.busy = false) : s.txValid = false := h

theorem State.txLast_of_idle {s : State} (h : s.busy = false) : s.txLast = false := by
  simp [State.txLast, h]

/-- Settles O1: with `rst` = 1 the step is the reset update, whose fields are those of R36; the request and
transmit outputs follow from the block being idle, the status outputs are the status fields. -/
theorem resetEdgeTakesResetValues : Obligations.ResetEdgeTakesResetValues := by
  intro s hrst
  have hidle : s.popInput.resetEdge.busy = false := s.popInput.resetEdge_busy
  exact ⟨s.popInput.resetEdge, step_of_rst s hrst,
    hidle, State.resetEdge_len _, State.resetEdge_idx _, State.resetEdge_errValidR _, State.resetEdge_errCodeR _,
    State.reqReady_of_idle hidle, State.txValid_of_idle hidle, State.txLast_of_idle hidle,
    State.resetEdge_errValidR _, State.resetEdge_errCodeR _,
    State.resetEdge_sent _, State.resetEdge_inputs _⟩

end Sys2Proof.Machine

/-! The invariant along a step (10_state.md R23, R24; 60_exceptions.md R200, R203, R204), update by update. -/

namespace Sys2Proof.Machine

theorem State.atLast_iff (s : State) : s.atLast = true ↔ s.idx.toNat + 1 = s.len.toNat := beq_iff_eq

theorem RejectCode.bits_ne_three (c : RejectCode) : c.bits ≠ 3 := by cases c <;> decide

theorem RejectCode.bits_ne_zero (c : RejectCode) : c.bits ≠ 0 := by cases c <;> decide

/-- An idle block owes the invariant only its index and its status. -/
theorem State.inv_of_idle {s : State} (hb : s.busy = false) (hidx : s.idx = 0) (hcode : s.errCodeR ≠ 3)
    (hpulse : s.errValidR = true → s.errCodeR ≠ 0) : s.Inv where
  busyFrame h := by simp [hb] at h
  busyLen h := by simp [hb] at h
  busyIdx h := by simp [hb] at h
  idleIdx _ := hidx
  code := hcode
  pulse h := ⟨hb, hpulse h⟩

/-- A busy block owes the invariant its frame, its index, and a status without a pulse. -/
theorem State.inv_of_busy {s : State} (hb : s.busy = true) (hframe : ∃ r, build r = .frame s.heldFrame)
    (hlen : s.len = 6 ∨ s.len = 14) (hidx : s.idx.toNat < s.len.toNat) (hcode : s.errCodeR ≠ 3)
    (hpulse : s.errValidR = false) : s.Inv where
  busyFrame _ := hframe
  busyLen _ := hlen
  busyIdx _ := hidx
  idleIdx h := by simp [hb] at h
  code := hcode
  pulse h := by simp [hpulse] at h

theorem State.inv_resetEdge (s : State) : s.resetEdge.Inv :=
  State.inv_of_idle s.resetEdge_busy s.resetEdge_idx (by simp) (by simp)

theorem State.Inv.hold {s : State} (hi : s.Inv) : s.hold.Inv :=
  ⟨hi.busyFrame, hi.busyLen, hi.busyIdx, hi.idleIdx, hi.code, by simp⟩

theorem State.Inv.takeReject {s : State} (hi : s.Inv) (hb : s.busy = false) (c : RejectCode) :
    (s.takeReject c).Inv :=
  State.inv_of_idle hb (hi.idleIdx hb) c.bits_ne_three fun _ => c.bits_ne_zero

theorem State.Inv.loadFrame {s : State} (hi : s.Inv) {r : Request} {bs : List Byte} (h : build r = .frame bs) :
    (s.loadFrame bs).Inv := by
  have hload := loadFrame_loads r bs s h
  have hlength := build_frame_length r bs h
  have hpos : (s.loadFrame bs).idx.toNat < (s.loadFrame bs).len.toNat := by
    rw [hload.len, hload.idx]
    rcases hlength with h | h <;> simp [h]
  have hlen : (s.loadFrame bs).len = 6 ∨ (s.loadFrame bs).len = 14 := by
    rcases hlength with h | h <;> simp [h]
  exact State.inv_of_busy hload.busy ⟨r, by rw [hload.frame, h]⟩ hlen hpos hi.code hload.pulse

theorem State.transfer_busy_of_last {s : State} (hl : s.atLast = true) : s.transfer.busy = false := by
  simp [State.transfer_busy, hl]

theorem State.transfer_busy_of_not_last {s : State} (hl : s.atLast = false) : s.transfer.busy = s.busy := by
  simp [State.transfer_busy, hl]

/-- Before the last byte a transfer moves the index one up, without wrapping. -/
theorem State.Inv.transfer_idx_of_not_last {s : State} (hi : s.Inv) (hb : s.busy = true) (hl : s.atLast = false) :
    s.transfer.idx.toNat = s.idx.toNat + 1 := by
  rw [State.transfer_idx, hl, if_neg Bool.false_ne_true, hi.idx_succ hb]

theorem State.Inv.transfer {s : State} (hi : s.Inv) (hb : s.busy = true) : s.transfer.Inv := by
  have hcode : s.transfer.errCodeR ≠ 3 := by simpa using hi.code
  cases hl : s.atLast with
  | true =>
    exact State.inv_of_idle (State.transfer_busy_of_last hl) (by simp [State.transfer_idx, hl]) hcode (by simp)
  | false =>
    have hnext : s.idx.toNat + 1 ≠ s.len.toNat := fun h => by simp [s.atLast_iff.mpr h] at hl
    have hidx : s.transfer.idx.toNat < s.transfer.len.toNat := by
      rw [hi.transfer_idx_of_not_last hb hl, State.transfer_len]
      exact Nat.lt_of_le_of_ne (hi.busyIdx hb) hnext
    exact State.inv_of_busy ((State.transfer_busy_of_not_last hl).trans hb)
      (by simpa [heldFrame_transfer hl] using hi.busyFrame hb) (by simpa using hi.busyLen hb) hidx hcode (by simp)

/-- Every step keeps the invariant: one update's lemma for each edge. -/
theorem State.Inv.of_step {s t : State} (hi : s.Inv) (h : step s = .next t) : t.Inv := by
  obtain ⟨-, -, hs⟩ | ⟨bs, -, -, -, -, hB, hs⟩ | ⟨c, -, -, hb, -, -, hs⟩ | ⟨-, -, hb, -, hs⟩ | ⟨-, -, -, hs⟩ :=
    step_cases s <;> cases hs.symm.trans h
  · exact State.inv_resetEdge _
  · exact hi.popInput.loadFrame hB
  · exact hi.popInput.takeReject hb c
  · exact hi.popInput.transfer hb
  · exact hi.popInput.hold

end Sys2Proof.Machine

/-! What each update leaves to be sent (20_memory.md R56): a transfer moves the head of what is pending to the wire,
and an accepted frame is what is pending next. -/

namespace Sys2Proof.Machine

theorem State.pending_of_idle {s : State} (h : s.busy = false) : s.pending = [] := by simp [State.pending, h]

@[simp] theorem State.pending_popInput (s : State) : s.popInput.pending = s.pending := rfl

@[simp] theorem State.pending_hold (s : State) : s.hold.pending = s.pending := rfl

@[simp] theorem State.pending_takeReject (s : State) (c : RejectCode) : (s.takeReject c).pending = s.pending := rfl

theorem State.pending_loadFrame (s : State) {r : Request} {bs : List Byte} (h : build r = .frame bs) :
    (s.loadFrame bs).pending = asTransfers bs := by
  simp [State.pending, (loadFrame_loads r bs s h).frame]

/-- The byte a transfer takes is the first of those pending, and the rest stay pending: after the last byte
nothing is left, before it the index has gone one up in the same frame. -/
theorem State.Inv.pending_transfer {s : State} (hi : s.Inv) (hb : s.busy = true) :
    s.pending = ⟨s.currentByte, s.atLast⟩ :: s.transfer.pending := by
  obtain ⟨hlt, hbyte⟩ := hi.currentByte_eq hb
  have hlast : (s.idx.toNat + 1 == s.heldFrame.length) = s.atLast := by
    rw [hi.heldFrame_length hb, State.atLast]
  have hhead : s.pending = ⟨s.currentByte, s.atLast⟩ :: (asTransfers s.heldFrame).drop (s.idx.toNat + 1) := by
    rw [State.pending, if_pos hb, List.drop_eq_getElem_cons (by simpa using hlt), asTransfers_getElem _ _ hlt, hlast,
      hbyte]
  rw [hhead]
  congr 1
  cases hl : s.atLast with
  | true =>
    rw [State.pending_of_idle (State.transfer_busy_of_last hl), List.drop_eq_nil_iff, asTransfers_length,
      hi.heldFrame_length hb, s.atLast_iff.mp hl]
  | false =>
    rw [State.pending, if_pos ((State.transfer_busy_of_not_last hl).trans hb), heldFrame_transfer hl,
      hi.transfer_idx_of_not_last hb hl]

/-- A request puts its frame's bytes on the wire. -/
theorem Request.transfers_of_frame {r : Request} {bs : List Byte} (h : build r = .frame bs) :
    Request.transfers r = asTransfers bs := by
  simp [Request.transfers, h, BuildOutcome.wire]

/-- A rejected request puts nothing on the wire. -/
theorem Request.transfers_of_reject {r : Request} {c : RejectCode} (h : build r = .reject c) :
    Request.transfers r = [] := by
  simp [Request.transfers, h, BuildOutcome.wire, asTransfers]

end Sys2Proof.Machine

/-! Runs of several edges, taken apart at their first edge. -/

namespace Sys2Proof.Machine

/-- Every step uses up one input. -/
theorem step_inputs {s t : State} (h : step s = .next t) : t.inputs = s.inputs.tail := by
  obtain ⟨-, -, hs⟩ | ⟨bs, -, -, -, -, -, hs⟩ | ⟨c, -, -, -, -, -, hs⟩ | ⟨-, -, -, -, hs⟩ | ⟨-, -, -, hs⟩ :=
    step_cases s <;> cases hs.symm.trans h <;> simp

theorem run_succ {n : Nat} {s u : State} (h : step s = .next u) : run (n + 1) s = run n u := by
  simp only [run, h]

/-- The step is total (70_reset_and_hazards.md R249). -/
theorem step_next (s : State) : ∃ t, step s = .next t := by
  obtain ⟨-, -, hs⟩ | ⟨bs, -, -, -, -, -, hs⟩ | ⟨c, -, -, -, -, -, hs⟩ | ⟨-, -, -, -, hs⟩ | ⟨-, -, -, hs⟩ :=
    step_cases s <;> exact ⟨_, hs⟩

theorem accepted_one_of_accept {s t : State} {r : Request} (he : s.edge = .accept r) (h : step s = .next t) :
    accepted 1 s = [r] := by
  simp [accepted, he, h]

theorem accepted_one_of_not_accept {s : State} (he : ∀ r, s.edge ≠ .accept r) : accepted 1 s = [] := by
  obtain ⟨t, h⟩ := step_next s
  cases hk : s.edge with
  | accept r => exact absurd hk (he r)
  | reset | transfer | hold => simp [accepted, hk, h]

/-- The requests accepted are those of the first edge, then those of the edges after it. -/
theorem accepted_succ (n : Nat) {s u : State} (h : step s = .next u) :
    accepted (n + 1) s = accepted 1 s ++ accepted n u := by
  cases he : s.edge <;> simp [accepted, he, h]

/-- Without reset in `n + 1` edges there is none at the first edge and none in the `n` after it. -/
theorem State.noReset.of_succ {n : Nat} {s u : State} (hn : s.noReset (n + 1)) (h : step s = .next u) :
    s.nextInput.rst = false ∧ u.noReset n := by
  rw [State.noReset, step_inputs h]
  cases hin : s.inputs with
  | nil => simp [State.nextInput, hin, EdgeInput.quiet]
  | cons e es =>
    rw [State.noReset, hin] at hn
    simpa [State.nextInput, hin] using hn

end Sys2Proof.Machine

/-! The byte stream (20_memory.md R56, R57): what is on the wire or pending grows by the accepted frames alone. -/

namespace Sys2Proof.Machine

/-- One edge without reset: the bytes taken and those pending are as before, then the frame of the request
accepted at the edge, if one was. -/
theorem State.Inv.stream_step {s t : State} (hi : s.Inv) (hr : s.nextInput.rst = false) (h : step s = .next t) :
    t.sent ++ t.pending = s.sent ++ s.pending ++ (accepted 1 s).flatMap Request.transfers := by
  obtain ⟨-, hrst, -⟩ | ⟨bs, he, -, hb, -, hB, hs⟩ | ⟨c, he, -, hb, -, hB, hs⟩ | ⟨he, -, hb, -, hs⟩ |
    ⟨he, -, -, hs⟩ := step_cases s
  · simp [hr] at hrst
  · cases hs.symm.trans h
    simp [accepted_one_of_accept he hs, State.pending_loadFrame _ hB, State.pending_of_idle hb,
      Request.transfers_of_frame hB]
  · cases hs.symm.trans h
    simp [accepted_one_of_accept he hs, Request.transfers_of_reject hB]
  · cases hs.symm.trans h
    have hmove := hi.popInput.pending_transfer hb
    rw [State.pending_popInput] at hmove
    simp [accepted_one_of_not_accept, he, hmove]
  · cases hs.symm.trans h
    simp [accepted_one_of_not_accept, he]

/-- Settles O29, by induction on the number of edges: each edge adds its accepted frame, and keeps the invariant
the next edge needs. -/
theorem byteStreamIsAcceptedFrames : Obligations.ByteStreamIsAcceptedFrames := by
  intro n
  induction n with
  | zero =>
    intro s t _ _ h
    cases h
    simp [accepted]
  | succ n ih =>
    intro s t hi hn h
    obtain ⟨u, hu⟩ := step_next s
    obtain ⟨hr, hn'⟩ := hn.of_succ hu
    calc t.sent ++ t.pending
        = u.sent ++ u.pending ++ (accepted n u).flatMap Request.transfers :=
          ih u t (hi.of_step hu) hn' (run_succ hu ▸ h)
      _ = s.sent ++ s.pending ++ (accepted (n + 1) s).flatMap Request.transfers := by
          rw [hi.stream_step hr hu, accepted_succ n hu, List.flatMap_append, List.append_assoc _ (List.flatMap _ _)]

/-- An idle block that accepts a request Build rejects takes the reject (60_exceptions.md R200). -/
theorem step_of_reject {s : State} {c : RejectCode} (hb : s.busy = false) (hr : s.nextInput.rst = false)
    (hv : s.nextInput.reqValid = true) (hB : build s.nextInput.req = .reject c) :
    step s = .next (s.popInput.takeReject c) := by
  rw [step_accept s _ (edge_accept s hb hr hv), hB, answer_reject c s.popInput hb]

/-- Settles O30: a request is accepted by an idle block alone, which has nothing pending, so by O29 the wire holds
every earlier frame; the reject adds no byte to it. -/
theorem rejectFollowsEarlierFrames : Obligations.RejectFollowsEarlierFrames := by
  intro n s t code hi hn hrun hb hr hv hB
  have hwire := byteStreamIsAcceptedFrames n s t hi hn hrun
  rw [State.pending_of_idle hb, List.append_nil] at hwire
  exact ⟨t.popInput.takeReject code, step_of_reject hb hr hv hB, rfl, rfl, hb, hwire⟩

end Sys2Proof.Machine

/-! Proofs about the weight frame of 30_encoding.md R76 and the operations that load a frame of Build's. -/

namespace Sys2Proof.Machine

/-- The meaning of the operation a request decodes to loads the frame Build makes of that request. -/
theorem exec_loadsFrame {r : Request} {i : Instr} {bs : List Byte} {s : State} (hd : decode r = .ok i)
    (hB : build r = .frame bs) (hb : s.busy = false) : ∃ t, exec i s = .next t ∧ LoadsFrame bs s t := by
  obtain ⟨j, hj, he⟩ | ⟨e, hj, -⟩ := decode_build r <;> cases hd.symm.trans hj
  exact ⟨s.loadFrame bs, by rw [he, hB, answer_frame bs s hb], loadFrame_loads r bs s hB⟩

/-- The checksum unit's sum over the body, which starts from zero, is the table's XOR of indices 1 to 10. -/
theorem wrapBody_weight_eq_tableFrame (a c : Byte) (w : Int) :
    wrapBody ([a, c] ++ payload w) = tableFrame a c w := by
  have hsum : xorSum ([a, c] ++ payload w) =
      a ^^^ c ^^^ signChar w ^^^ digitChar (magnitude w) 100000 ^^^ digitChar (magnitude w) 10000 ^^^
        digitChar (magnitude w) 1000 ^^^ digitChar (magnitude w) 100 ^^^ digitChar (magnitude w) 10 ^^^
        digitChar (magnitude w) 1 ^^^ 0x32 := by
    simp [xorSum, payload, digits6, decPos]
  rw [wrapBody_weight, hsum]
  rfl

/-- Build's frame for a weight command within range is the table of 30_encoding.md R76. -/
theorem build_weightCommand {a c : Byte} {w : Weight} (hc : c = 0x42 ∨ c = 0x43 ∨ c = 0x44)
    (hw : w.toInt.natAbs ≤ 999999) : build ⟨a, c, w⟩ = .frame (tableFrame a c w.toInt) := by
  rw [← wrapBody_weight_eq_tableFrame]
  rcases hc with rfl | rfl | rfl <;> simp [build, Nat.not_lt.mpr hw]

/-- Settles O13: each of the three operations is decoded from its own command byte, for which Build makes the
table's frame. -/
theorem weightCommandsLoadTheirFrames : Obligations.WeightCommandsLoadTheirFrames := by
  intro s a w hb hw
  exact ⟨exec_loadsFrame (r := ⟨a, 0x42, w⟩) rfl (build_weightCommand (.inl rfl) hw) hb,
    exec_loadsFrame (r := ⟨a, 0x43, w⟩) rfl (build_weightCommand (.inr (.inl rfl)) hw) hb,
    exec_loadsFrame (r := ⟨a, 0x44, w⟩) rfl (build_weightCommand (.inr (.inr rfl)) hw) hb⟩

end Sys2Proof.Machine

/-! The value sets of a frame's positions (30_encoding.md R77, R79): the sets, the part of the frame each holds, and
where those parts stand in a wrapped body. -/

namespace Sys2Proof.Machine

/-- The characters of a decimal digit (30_encoding.md R79). -/
def IsDigitChar (b : Byte) : Prop := 0x30 ≤ b ∧ b ≤ 0x39

/-- The characters of a checksum nibble (30_encoding.md R79). -/
def IsNibbleChar (b : Byte) : Prop := 0x30 ≤ b ∧ b ≤ 0x39 ∨ 0x41 ≤ b ∧ b ≤ 0x46

/-- Printable ASCII, which holds neither marker (30_encoding.md R79). -/
def IsPrintable (b : Byte) : Prop := 0x20 ≤ b ∧ b ≤ 0x7E ∧ b ≠ 0x02 ∧ b ≠ 0x03

/-- The markers lie below the printable range. -/
theorem isPrintable_of_range {b : Byte} (hlow : 0x20 ≤ b) (hhigh : b ≤ 0x7E) : IsPrintable b :=
  ⟨hlow, hhigh, by bv_omega, by bv_omega⟩

theorem IsDigitChar.isPrintable {b : Byte} (h : IsDigitChar b) : IsPrintable b := by
  obtain ⟨hlow, hhigh⟩ := h
  exact isPrintable_of_range (by bv_omega) (by bv_omega)

theorem IsNibbleChar.isPrintable {b : Byte} (h : IsNibbleChar b) : IsPrintable b := by
  obtain hdigit | ⟨hlow, hhigh⟩ := h
  · exact IsDigitChar.isPrintable hdigit
  · exact isPrintable_of_range (by bv_omega) (by bv_omega)

theorem digitChar_isDigitChar (mag p : Nat) : IsDigitChar (digitChar mag p) := by
  have hcode := digitChar_toNat mag p
  have hdigit : mag / p % 10 < 10 := Nat.mod_lt _ (by decide)
  exact ⟨by bv_omega, by bv_omega⟩

theorem nibbleChar_isNibbleChar (n : BitVec 4) : IsNibbleChar (nibbleChar n) := by
  revert n
  unfold IsNibbleChar
  decide

/-- The three kinds of characters in a payload: sign, digits, decimal indicator (41_frame_builder.md R123). -/
theorem isPrintable_of_mem_payload {b : Byte} {w : Int} (h : b ∈ payload w) : IsPrintable b := by
  simp only [payload, digits6, List.mem_append, List.mem_singleton, List.mem_map] at h
  obtain (rfl | ⟨p, -, rfl⟩) | rfl := h
  · obtain ⟨-, hs⟩ | ⟨-, hs⟩ := signChar_cases w <;> rw [hs] <;> exact isPrintable_of_range (by decide) (by decide)
  · exact (digitChar_isDigitChar _ p).isPrintable
  · exact isPrintable_of_range (by decide) (by decide)

@[simp] theorem wrapBody_length (body : List Byte) : (wrapBody body).length = body.length + 4 := by
  simp [wrapBody]

/-- A wrapped body ends with the end marker. -/
theorem wrapBody_last (body : List Byte) : (wrapBody body)[(wrapBody body).length - 1]? = some 0x03 := by
  simp [wrapBody, endMarker]

/-- The two bytes before the end marker are the checksum characters. -/
theorem wrapBody_checksum (body : List Byte) {k : Nat}
    (hk : k = (wrapBody body).length - 3 ∨ k = (wrapBody body).length - 2) :
    ∃ c, (wrapBody body)[k]? = some c ∧ IsNibbleChar c := by
  obtain rfl | rfl := hk
  · exact ⟨(checksumChars (xorSum body)).1, by simp [wrapBody], nibbleChar_isNibbleChar _⟩
  · exact ⟨(checksumChars (xorSum body)).2, by simp [wrapBody], nibbleChar_isNibbleChar _⟩

/-- Between the markers and after the address stand the rest of the body and the checksum characters. -/
theorem wrapBody_inner {a b : Byte} {body : List Byte} {k : Nat} (h0 : k ≠ 0) (h1 : k ≠ 1)
    (hlast : k ≠ (wrapBody (a :: body)).length - 1) (hb : (wrapBody (a :: body))[k]? = some b) :
    b ∈ body ∨ IsNibbleChar b := by
  have hlt : k < (wrapBody (a :: body)).length := (List.getElem?_eq_some_iff.mp hb).1
  rw [wrapBody_length, List.length_cons] at hlt hlast
  by_cases hbody : k < body.length + 2
  · obtain ⟨j, rfl⟩ : ∃ j, k = j + 2 := ⟨k - 2, by omega⟩
    exact .inl (List.mem_of_getElem? ((List.getElem?_append_left (by omega)).symm.trans hb))
  · obtain ⟨c, hc, hchar⟩ := wrapBody_checksum (a :: body) (k := k)
      (by rw [wrapBody_length, List.length_cons]; omega)
    cases hb.symm.trans hc
    exact .inr hchar

/-- Build makes one shape of frame: address, command byte and a payload, which is empty for HANDSHAKE alone. -/
theorem build_frame_shape {r : Request} {bs : List Byte} (h : build r = .frame bs) :
    ∃ pay, bs = wrapBody (r.addr :: r.cmd :: pay) ∧ 0x41 ≤ r.cmd ∧ r.cmd ≤ 0x44 ∧
      (r.cmd = 0x41 ∧ pay = [] ∨ r.cmd ≠ 0x41 ∧ pay = payload r.weight.toInt) := by
  obtain ⟨hc, rfl⟩ | ⟨hc, -, rfl⟩ := build_frame_cases r bs h
  · exact ⟨[], rfl, by simp [hc], by simp [hc], .inl ⟨hc, rfl⟩⟩
  · refine ⟨payload r.weight.toInt, rfl, ?_⟩
    rcases hc with hc | hc | hc <;> simp [hc]

/-- The sign, decimal indicator and digits of a weight frame stand at their indices (30_encoding.md R76). -/
theorem wrapBody_payload_positions (a c : Byte) (w : Int) :
    ((wrapBody (a :: c :: payload w))[3]? = some 0x2B ∨ (wrapBody (a :: c :: payload w))[3]? = some 0x2D) ∧
      (wrapBody (a :: c :: payload w))[10]? = some 0x32 ∧
      ∀ k, 4 ≤ k → k ≤ 9 → ∃ d, (wrapBody (a :: c :: payload w))[k]? = some d ∧ IsDigitChar d := by
  have hsign : (wrapBody (a :: c :: payload w))[3]? = some (signChar w) := rfl
  refine ⟨?_, rfl, ?_⟩
  · rw [hsign]
    obtain ⟨-, hs⟩ | ⟨-, hs⟩ := signChar_cases w <;> simp [hs]
  · intro k hlow hhigh
    interval_cases k <;> exact ⟨_, rfl, digitChar_isDigitChar _ _⟩

/-- Settles O25: a frame is a wrapped body of address, command byte and payload, so the markers, the checksum and
the printable bytes are those of any wrapped body, and the rest is read off the payload. -/
theorem framePositionsHoldTheirValues : Obligations.FramePositionsHoldTheirValues := by
  intro r bs h
  obtain ⟨pay, rfl, hlow, hhigh, hpay⟩ := build_frame_shape h
  have hprint : ∀ b ∈ r.cmd :: pay, IsPrintable b := by
    intro b hb
    obtain rfl | hb := List.mem_cons.mp hb
    · exact isPrintable_of_range (by bv_omega) (by bv_omega)
    · obtain ⟨-, rfl⟩ | ⟨-, rfl⟩ := hpay
      · cases hb
      · exact isPrintable_of_mem_payload hb
  refine ⟨?length, rfl, wrapBody_last _, rfl, rfl, ⟨r.cmd, rfl, hlow, hhigh⟩, ?payload,
    fun k => wrapBody_checksum _, fun k b h0 h1 hlast hb => ?printable⟩
  case length =>
    obtain ⟨hc, rfl⟩ | ⟨hc, rfl⟩ := hpay
    · rw [if_pos hc]; rfl
    · rw [if_neg hc]; rfl
  case payload =>
    intro hc
    obtain ⟨hc', -⟩ | ⟨-, rfl⟩ := hpay
    · exact absurd hc' hc
    · exact wrapBody_payload_positions r.addr r.cmd r.weight.toInt
  case printable =>
    obtain hb | hb := wrapBody_inner h0 h1 hlast hb
    · exact hprint b hb
    · exact hb.isPrintable

end Sys2Proof.Machine

/-! The checksum's algebra (40_checksum_unit.md R101): each law follows from how the sum takes one byte. -/

namespace Sys2Proof.Machine

@[simp] theorem xorSum_nil : xorSum [] = 0 := rfl

theorem xorSum_append (as bs : List Byte) : xorSum (as ++ bs) = xorSum as ^^^ xorSum bs := by
  induction as with
  | nil => simp
  | cons a as ih => rw [List.cons_append, xorSum_cons, xorSum_cons, ih, BitVec.xor_assoc]

/-- A byte is its own inverse. -/
theorem xorSum_pair_append (x : Byte) (bs : List Byte) : xorSum ([x, x] ++ bs) = xorSum bs := by
  simp [xorSum_cons]

theorem xorSum_append_self (bs : List Byte) : xorSum (bs ++ [xorSum bs]) = 0 := by
  simp [xorSum_append, xorSum_cons]

/-- The order of the bytes does not matter: an exchange of two neighbours keeps the sum. -/
theorem xorSum_eq_of_perm {bs cs : List Byte} (h : bs.Perm cs) : xorSum bs = xorSum cs := by
  induction h with
  | nil => rfl
  | cons b _ ih => rw [xorSum_cons, xorSum_cons, ih]
  | swap b c l => simp only [xorSum_cons, ← BitVec.xor_assoc, BitVec.xor_comm c b]
  | trans _ _ ih₁ ih₂ => exact ih₁.trans ih₂

/-- Settles O22: the splitting law is by induction on the first list, the order law on the permutation; a
reversal is a permutation, and the two cancelling laws turn on `x ^^^ x = 0`. -/
theorem xorSumLaws : Obligations.XorSumLaws :=
  ⟨xorSum_nil, fun _ _ => xorSum_eq_of_perm, fun bs => xorSum_eq_of_perm bs.reverse_perm.symm, xorSum_append,
    xorSum_pair_append, xorSum_append_self⟩

end Sys2Proof.Machine

/-! The checksum characters read back (40_checksum_unit.md R103, R105). -/

namespace Sys2Proof.Machine

/-- `CharNibble` on '0' to '9'. -/
theorem charNibble_of_digit {c : Byte} (hlow : 0x30 ≤ c) (hhigh : c ≤ 0x39) :
    charNibble c = some ((c - 0x30).truncate 4) :=
  if_pos ⟨hlow, hhigh⟩

/-- `CharNibble` on 'A' to 'F', which lie above the digits. -/
theorem charNibble_of_letter {c : Byte} (hlow : 0x41 ≤ c) (hhigh : c ≤ 0x46) :
    charNibble c = some ((c - 0x37).truncate 4) := by
  have hdigit : ¬ (0x30 ≤ c ∧ c ≤ 0x39) := fun h => by bv_omega
  rw [charNibble, if_neg hdigit, if_pos ⟨hlow, hhigh⟩]

theorem charNibble_eq_none {c : Byte} (hdigit : ¬ (0x30 ≤ c ∧ c ≤ 0x39))
    (hletter : ¬ (0x41 ≤ c ∧ c ≤ 0x46)) :
    charNibble c = none := by
  rw [charNibble, if_neg hdigit, if_neg hletter]

/-- An offset that leaves a value under 16 is not cut by the four bits of a nibble. -/
theorem truncate_sub_toNat {c k : Byte} (hlow : k ≤ c) (hhigh : c.toNat - k.toNat < 16) :
    ((c - k).truncate 4).toNat = c.toNat - k.toNat := by
  rw [BitVec.truncate_eq_setWidth, BitVec.toNat_setWidth, BitVec.toNat_sub_of_le hlow, Nat.mod_eq_of_lt hhigh]

/-- The receiver's inverse undoes the encoder's table, entry by entry. -/
@[simp] theorem charNibble_nibbleChar (n : BitVec 4) : charNibble (nibbleChar n) = some n := by
  revert n
  decide

/-- The two nibbles of a byte, put together again. -/
theorem join_highNibble_lowNibble (v : Byte) :
    (highNibble v).zeroExtend 8 <<< 4 ||| (lowNibble v).zeroExtend 8 = v := by
  ext i hi
  by_cases h : i < 4
  · simp [highNibble, lowNibble, h, hi]
  · have hhigh : i - 4 < 4 := by omega
    have hindex : 4 + (i - 4) = i := by omega
    simp [highNibble, lowNibble, h, hi, hhigh, hindex]

/-- The characters of a checksum byte read back as the byte. -/
theorem readChecksum_checksumChars (v : Byte) :
    readChecksum (checksumChars v).1 (checksumChars v).2 = some v := by
  simp only [readChecksum, checksumChars, charNibble_nibbleChar, join_highNibble_lowNibble]

/-- The bytes after the start marker and before the checksum characters are the body. -/
theorem wrapBody_body (body : List Byte) :
    ((wrapBody body).take ((wrapBody body).length - 3)).drop 1 = body := by
  simp [wrapBody]

/-- In every wrapped body the two bytes before the end marker are its sum's characters, the high nibble's first. -/
theorem wrapBody_readChecksum (body : List Byte) :
    ∃ hi lo, (wrapBody body)[(wrapBody body).length - 3]? = some hi ∧
      (wrapBody body)[(wrapBody body).length - 2]? = some lo ∧ readChecksum hi lo = some (xorSum body) :=
  ⟨(checksumChars (xorSum body)).1, (checksumChars (xorSum body)).2, by simp [wrapBody], by simp [wrapBody],
    readChecksum_checksumChars _⟩

/-- Settles O24: `CharNibble` by its three cases, and the frame's round trip from the fact that every frame of Build
is a wrapped body, whose sum's characters read back. -/
theorem checksumReadsBack : Obligations.ChecksumReadsBack := by
  refine ⟨fun c hlow hhigh => ?digit, fun c hlow hhigh => ?letter, fun c => charNibble_eq_none,
    charNibble_nibbleChar, fun r bs h => ?frame⟩
  case digit => exact ⟨_, charNibble_of_digit hlow hhigh, truncate_sub_toNat hlow (by bv_omega)⟩
  case letter => exact ⟨_, charNibble_of_letter hlow hhigh, truncate_sub_toNat (by bv_omega) (by bv_omega)⟩
  case frame =>
    obtain ⟨pay, rfl, -⟩ := build_frame_shape h
    rw [wrapBody_body]
    exact wrapBody_readChecksum _

/-- Settles O23: the table has sixteen entries, each computed from the offsets of R102. -/
theorem nibbleCharTable : Obligations.NibbleCharTable := by
  unfold Obligations.NibbleCharTable
  decide

end Sys2Proof.Machine

/-! Proofs about the handshake frame of 30_encoding.md R75 and the range check of 41_frame_builder.md R125. -/

namespace Sys2Proof.Machine

/-- Build's frame for HANDSHAKE is the table of 30_encoding.md R75, at every weight (41_frame_builder.md R129). -/
theorem build_handshake (a : Byte) (w : Weight) :
    build ⟨a, 0x41, w⟩ =
      .frame [0x02, a, 0x41, nibbleChar (highNibble (a ^^^ 0x41)), nibbleChar (lowNibble (a ^^^ 0x41)), 0x03] := by
  have hsum : xorSum [a, 0x41] = a ^^^ 0x41 := by simp [xorSum]
  rw [← hsum, ← wrapBody_handshake]
  rfl

/-- Settles O11: HANDSHAKE is decoded from its own command byte, for which Build makes the table's frame. -/
theorem handshakeLoadsItsFrame : Obligations.HandshakeLoadsItsFrame := by
  intro s a w hb
  exact exec_loadsFrame (r := ⟨a, 0x41, w⟩) rfl (build_handshake a w) hb

/-- The meaning of the operation a request decodes to takes the reject Build answers that request with. -/
theorem exec_takesReject {r : Request} {i : Instr} {c : RejectCode} {s : State} (hd : decode r = .ok i)
    (hB : build r = .reject c) (hb : s.busy = false) : exec i s = .next (s.takeReject c) := by
  obtain ⟨j, hj, he⟩ | ⟨e, hj, -⟩ := decode_build r <;> cases hd.symm.trans hj
  rw [he, hB, answer_reject c s hb]

/-- Build rejects a weight command over the bound (41_frame_builder.md R125). -/
theorem build_weightCommand_overRange {a c : Byte} {w : Weight} (hc : c = 0x42 ∨ c = 0x43 ∨ c = 0x44)
    (hw : 999999 < w.toInt.natAbs) : build ⟨a, c, w⟩ = .reject .errRange := by
  rcases hc with rfl | rfl | rfl <;> simp [build, hw]

/-- What loading a frame does to the status (60_exceptions.md R203). -/
theorem LoadsFrame.busy_pulse_code {bs : List Byte} {s t : State} (h : LoadsFrame bs s t) :
    t.busy = true ∧ t.errValidR = false ∧ t.errCodeR = s.errCodeR :=
  ⟨h.busy, h.pulse, h.code⟩

/-- Settles O14: over the bound Build rejects each weight command and taking the reject writes the two status fields
alone; within it O13, and for HANDSHAKE O11, loads a frame. -/
theorem overRangeWeightsAreRejected : Obligations.OverRangeWeightsAreRejected := by
  intro s a w hb
  refine ⟨fun hw => ?overRange, fun i hi hw => ?inRange, ?handshake⟩
  case overRange =>
    exact ⟨exec_takesReject (r := ⟨a, 0x42, w⟩) rfl (build_weightCommand_overRange (.inl rfl) hw) hb,
      exec_takesReject (r := ⟨a, 0x43, w⟩) rfl (build_weightCommand_overRange (.inr (.inl rfl)) hw) hb,
      exec_takesReject (r := ⟨a, 0x44, w⟩) rfl (build_weightCommand_overRange (.inr (.inr rfl)) hw) hb⟩
  case inRange =>
    obtain ⟨hgross, htare, hnet⟩ := weightCommandsLoadTheirFrames s a w hb hw
    have hloads : ∃ bs t, exec i s = .next t ∧ LoadsFrame bs s t := by
      simp only [List.mem_cons, List.not_mem_nil, or_false] at hi
      obtain rfl | rfl | rfl := hi
      · exact ⟨_, hgross⟩
      · exact ⟨_, htare⟩
      · exact ⟨_, hnet⟩
    obtain ⟨bs, t, hexec, ht⟩ := hloads
    exact ⟨t, hexec, ht.busy_pulse_code⟩
  case handshake =>
    obtain ⟨t, hexec, ht⟩ := handshakeLoadsItsFrame s a w hb
    exact ⟨t, hexec, ht.busy_pulse_code⟩

end Sys2Proof.Machine

/-! The host's readings (42_request_dispatch.md R158) and the alias (R155). -/

namespace Sys2Proof.Machine

/-- Truncation toward zero divides the magnitudes. -/
theorem Reading.hundredths_natAbs (v : Reading) :
    v.hundredths.natAbs = (v.digits * 100).natAbs / 10 ^ v.places := by
  rw [Reading.hundredths, Int.natAbs_tdiv, Int.natAbs_pow]
  rfl

/-- Truncation toward zero never turns the sign of the reading. -/
theorem Reading.hundredths_mul_digits_nonneg (v : Reading) : 0 ≤ v.hundredths * v.digits := by
  have hscale : (0 : Int) ≤ 10 ^ v.places := by positivity
  obtain hpos | hneg := le_total 0 v.digits
  · exact mul_nonneg (Int.tdiv_nonneg (by omega) hscale) hpos
  · have hquot : 0 ≤ -v.hundredths := by
      rw [Reading.hundredths, ← Int.neg_tdiv]
      exact Int.tdiv_nonneg (by omega) hscale
    exact mul_nonneg_of_nonpos_of_nonpos (neg_nonneg.mp hquot) hneg

/-- A reading with two places is a whole number of hundredths. -/
theorem Reading.hundredths_of_two_places {v : Reading} (h : v.places = 2) : v.hundredths = v.digits := by
  rw [Reading.hundredths, h]
  exact Int.mul_tdiv_cancel v.digits (by decide)

theorem HostParams.present_of_fits (p : HostParams) {v : Reading}
    (h : -(2 ^ 31) ≤ v.hundredths ∧ v.hundredths < 2 ^ 31) : (p.present v).toInt = v.hundredths := by
  obtain ⟨hlow, hhigh⟩ := h
  rw [HostParams.present, if_pos ⟨hlow, hhigh⟩]
  exact BitVec.toInt_ofInt_eq_self (by decide) hlow hhigh

theorem HostParams.present_of_not_fits (p : HostParams) {v : Reading}
    (h : ¬ (-(2 ^ 31) ≤ v.hundredths ∧ v.hundredths < 2 ^ 31)) : p.present v = p.overRange :=
  if_neg h

/-- Settles O41: the magnitude is a quotient of natural numbers, which gives both bounds; a reading beyond 32 bits
is presented as the host's over-range value, whose magnitude Build rejects. -/
theorem readingsTruncateTowardZero : Obligations.ReadingsTruncateTowardZero := by
  intro p v
  have hscale : 0 < 10 ^ v.places := by positivity
  refine ⟨?notAbove, ?largest, v.hundredths_mul_digits_nonneg, v.hundredths_of_two_places,
    fun hlow hhigh => p.present_of_fits ⟨hlow, hhigh⟩, fun hfit a c hc => ?rejected⟩
  case notAbove =>
    rw [v.hundredths_natAbs]
    exact Nat.div_mul_le_self _ _
  case largest =>
    rw [v.hundredths_natAbs]
    exact Nat.lt_mul_of_div_lt (Nat.lt_succ_self _) hscale
  case rejected =>
    rw [p.present_of_not_fits hfit]
    exact build_weightCommand_overRange (by simpa using hc) p.overRange_large

/-- Settles O38: the alias is checked before anything that follows its two bytes is read. -/
theorem aliasOffersReadNet : Obligations.AliasOffersReadNet := by
  intro p store rest
  unfold HostParams.request
  exact if_pos ⟨rfl, rfl⟩

end Sys2Proof.Machine

/-! The reject status at an edge without reset (60_exceptions.md R200 to R205): a reject writes it, and every other
edge lets the pulse fall and keeps the code. -/

namespace Sys2Proof.Machine

/-- The command byte is checked before the weight is looked at (60_exceptions.md R205). -/
theorem build_illegalCommand {r : Request} (hc : r.cmd ∉ ([0x41, 0x42, 0x43, 0x44] : List Byte)) :
    build r = .reject .errCmd :=
  if_pos hc

/-- Settles O15: Build rejects the request by its command byte alone, and taking that reject writes the two status
fields alone. -/
theorem illegalCommandsAreRejected : Obligations.IllegalCommandsAreRejected := by
  intro s hb hr hv hc
  exact step_of_reject hb hr hv (build_illegalCommand hc)

/-- An edge without reset at which no request is rejected lets the pulse fall and keeps the code. -/
theorem step_status_of_no_reject {s t : State} (hr : s.nextInput.rst = false)
    (hno : ¬ (s.busy = false ∧ s.nextInput.reqValid = true ∧ ∃ code, build s.nextInput.req = .reject code))
    (h : step s = .next t) : t.errValidR = false ∧ t.errCodeR = s.errCodeR := by
  obtain ⟨-, hrst, -⟩ | ⟨bs, -, -, -, -, -, hs⟩ | ⟨c, -, -, hb, hv, hB, -⟩ | ⟨-, -, -, -, hs⟩ | ⟨-, -, -, hs⟩ :=
    step_cases s
  · simp [hr] at hrst
  · cases hs.symm.trans h
    simp
  · exact absurd ⟨hb, hv, c, hB⟩ hno
  · cases hs.symm.trans h
    simp
  · cases hs.symm.trans h
    simp

/-- Settles O17: a rejected request's step takes the reject, which sets the pulse and the code; the other edges
are those of `step_status_of_no_reject`. -/
theorem statusUpdatesOnlyOnReject : Obligations.StatusUpdatesOnlyOnReject := by
  intro s t hr h
  refine ⟨fun code hb hv hB => ?rejected, fun hno => step_status_of_no_reject hr hno h⟩
  case rejected =>
    cases (step_of_reject hb hr hv hB).symm.trans h
    exact ⟨State.takeReject_errValidR _ _, State.takeReject_errCodeR _ _⟩

end Sys2Proof.Machine

/-! The accept, transfer and hold edges (70_reset_and_hazards.md R246 to R248), with what the sink sees of each. -/

namespace Sys2Proof.Machine

theorem State.txData_of_busy {s : State} (hb : s.busy = true) : s.txData = some s.currentByte := by
  simp [State.txData, hb]

theorem State.txLast_of_busy {s : State} (hb : s.busy = true) : s.txLast = s.atLast := by
  simp [State.txLast, hb]

/-- Every frame of Build's begins with the start marker (30_encoding.md R79). -/
theorem build_frame_first {r : Request} {bs : List Byte} (h : build r = .frame bs) : bs[0]? = some 0x02 := by
  obtain ⟨pay, rfl, -⟩ := build_frame_shape h
  rfl

/-- In the cycle after a frame is loaded its first byte is on `tx_data`. -/
theorem LoadsFrame.txData_of_first {bs : List Byte} {s t : State} {b : Byte} (h : LoadsFrame bs s t)
    (hfirst : bs[0]? = some b) : t.txData = some b := by
  rw [← h.frame, State.heldFrame, List.getElem?_take, Option.ite_none_right_eq_some, Vector.getElem?_toList] at hfirst
  obtain ⟨-, hbyte⟩ := hfirst
  have hcurrent : t.currentByte = b := by simpa [State.currentByte, h.idx] using hbyte
  rw [State.txData_of_busy h.busy, hcurrent]

/-- An idle block that accepts a request Build answers with a frame loads that frame (70_reset_and_hazards.md R246). -/
theorem step_of_frame {s : State} {bs : List Byte} (hb : s.busy = false) (hr : s.nextInput.rst = false)
    (hv : s.nextInput.reqValid = true) (hB : build s.nextInput.req = .frame bs) :
    step s = .next (s.popInput.loadFrame bs) := by
  rw [step_accept s _ (edge_accept s hb hr hv), hB, answer_frame bs s.popInput hb]

/-- Settles O16: the step answers with Build's outcome. A frame of Build's is loaded whole and begins with the start
marker; taking a reject writes the two status fields alone. -/
theorem acceptEdgeFollowsBuild : Obligations.AcceptEdgeFollowsBuild := by
  intro s hb hr hv
  refine ⟨fun bs hB => ?frame, fun code hB => step_of_reject hb hr hv hB⟩
  case frame =>
    have hload := loadFrame_loads s.nextInput.req bs s.popInput hB
    exact ⟨_, step_of_frame hb hr hv hB, hload, hload.busy, hload.txData_of_first (build_frame_first hB)⟩

/-- While a frame is held, `tx_last` stands at its last index alone; `len` is not 0 then, so the subtraction is
exact. -/
theorem State.Inv.atLast_iff_idx_eq {s : State} (hi : s.Inv) (hb : s.busy = true) :
    s.atLast = true ↔ s.idx.toNat = s.len.toNat - 1 := by
  have hidx := hi.busyIdx hb
  rw [s.atLast_iff]
  omega

/-- Settles O18: the step is the transfer update, split on whether the current byte is the frame's last. -/
theorem transferTakesOneByte : Obligations.TransferTakesOneByte := by
  intro s hi hr hb ht
  have hstep := step_transfer s (edge_transfer s hb hr ht)
  have hlast := hi.atLast_iff_idx_eq hb
  refine ⟨_, s.currentByte, hstep, State.txData_of_busy hb, ?taken, fun hend => ?last, fun hmid => ?notLast,
    State.transfer_len _, State.transfer_errValidR _, State.transfer_errCodeR _, State.transfer_inputs _⟩
  case taken =>
    rw [State.txLast_of_busy hb]
    exact State.transfer_sent s.popInput
  case last =>
    have hl : s.popInput.atLast = true := hlast.mpr hend
    exact ⟨(State.txLast_of_busy hb).trans hl, State.transfer_busy_of_last hl, by simp [State.transfer_idx, hl]⟩
  case notLast =>
    have hl : s.popInput.atLast = false := Bool.eq_false_iff.mpr (mt hlast.mp hmid)
    exact ⟨(State.txLast_of_busy hb).trans hl, (State.transfer_busy_of_not_last hl).trans hb,
      hi.popInput.transfer_idx_of_not_last hb hl, by simp [State.transfer_buf, hl]⟩

/-- Settles O19: the step is the hold update, which writes the pulse alone; the transmit outputs read none of the
two fields that changed. -/
theorem holdKeepsEverything : Obligations.HoldKeepsEverything := by
  intro s hr hhold
  exact ⟨s.popInput.hold, step_hold s (edge_hold s hr hhold), rfl, rfl, rfl⟩

end Sys2Proof.Machine

/-! Families that hold of every step: the invariant (10_state.md R23, R24) and the wire record (20_memory.md R53). -/

namespace Sys2Proof.Machine

/-- Settles O4: the case split on the four updates of an edge is `State.Inv.of_step`, one lemma for each update. -/
theorem stepKeepsBlockInvariant : Obligations.StepKeepsBlockInvariant :=
  fun _ _ hi h => hi.of_step h

/-- Settles O21: the edge decides the update, and each update answers a next state. -/
theorem everyStepAnswersNext : Obligations.EveryStepAnswersNext := step_next

/-- An idle block holds no frame whose bytes the wire record could speak of. -/
theorem State.wireRecord_of_idle {s : State} (hb : s.busy = false) : s.WireRecord := fun h => by simp [hb] at h

/-- Nothing of a frame just loaded has been taken. -/
theorem State.wireRecord_loadFrame (s : State) (bs : List Byte) : (s.loadFrame bs).WireRecord :=
  fun _ => ⟨s.sent, by simp⟩

/-- The byte at `idx` comes next after the bytes taken of the frame held. -/
theorem State.Inv.taken_succ {s : State} (hi : s.Inv) (hb : s.busy = true) :
    (asTransfers s.heldFrame).take (s.idx.toNat + 1) =
      (asTransfers s.heldFrame).take s.idx.toNat ++ [⟨s.currentByte, s.atLast⟩] := by
  obtain ⟨hlt, hbyte⟩ := hi.currentByte_eq hb
  rw [List.take_succ_eq_append_getElem (by simpa using hlt), asTransfers_getElem _ _ hlt, hbyte,
    hi.heldFrame_length hb, State.atLast]

/-- After the last byte the block is idle; before it the byte taken joins the record, and the index counts it. -/
theorem State.Inv.wireRecord_transfer {s : State} (hi : s.Inv) (hw : s.WireRecord) (hb : s.busy = true) :
    s.transfer.WireRecord := by
  cases hl : s.atLast with
  | true => exact State.wireRecord_of_idle (State.transfer_busy_of_last hl)
  | false =>
    intro _
    obtain ⟨before, hsent⟩ := hw hb
    refine ⟨before, ?_⟩
    rw [State.transfer_sent, hsent, heldFrame_transfer hl, hi.transfer_idx_of_not_last hb hl, hi.taken_succ hb,
      List.append_assoc]

/-- Settles O5: an update that leaves the block idle owes nothing, a loaded frame starts its record, and a transfer
adds its byte to it. -/
theorem stepKeepsWireRecord : Obligations.StepKeepsWireRecord := by
  intro s t hi hw h
  obtain ⟨-, -, hs⟩ | ⟨bs, -, -, -, -, -, hs⟩ | ⟨c, -, -, hb, -, -, hs⟩ | ⟨-, -, hb, -, hs⟩ | ⟨-, -, -, hs⟩ :=
    step_cases s <;> cases hs.symm.trans h
  · exact State.wireRecord_of_idle (State.resetEdge_busy _)
  · exact State.wireRecord_loadFrame _ bs
  · exact State.wireRecord_of_idle hb
  · exact hi.popInput.wireRecord_transfer hw hb
  · exact hw

/-- Settles O3: an idle block with index 0 and no reject shown. -/
theorem resetStateMeetsInvariants : Obligations.ResetStateMeetsInvariants :=
  ⟨State.inv_of_idle rfl rfl (by decide) (by decide), State.wireRecord_of_idle rfl⟩

/-- Settles O2: the outputs are those of any idle block. -/
theorem resetStateIsIdleAndReady : Obligations.ResetStateIsIdleAndReady :=
  ⟨rfl, rfl, rfl, State.reqReady_of_idle rfl, State.txValid_of_idle rfl, rfl, State.txLast_of_idle rfl, rfl, rfl⟩

/-- Settles O33: a busy block without reset transfers or holds. A transfer of the last byte has taken all that was
pending, and any other one leaves the frame; a hold leaves it too. -/
theorem heldFrameIsContiguous : Obligations.HeldFrameIsContiguous := by
  intro s t hi hb hr h
  obtain ⟨-, hrst, -⟩ | ⟨bs, -, -, hidle, -⟩ | ⟨c, -, -, hidle, -⟩ | ⟨-, -, -, -, hs⟩ | ⟨-, -, -, hs⟩ := step_cases s
  · simp [hr] at hrst
  · simp [hb] at hidle
  · simp [hb] at hidle
  · cases hs.symm.trans h
    cases hl : s.popInput.atLast with
    | true =>
      have hdone := State.transfer_busy_of_last hl
      refine ⟨fun hbusy => by simp [hdone] at hbusy, fun _ => ?_⟩
      rw [← State.pending_popInput, hi.popInput.pending_transfer hb, State.pending_of_idle hdone]
      exact State.transfer_sent _
    | false =>
      refine ⟨fun _ => ⟨heldFrame_transfer hl, State.transfer_len _⟩, fun hidle => ?_⟩
      simp [State.transfer_busy_of_not_last hl, hb] at hidle
  · cases hs.symm.trans h
    exact ⟨fun _ => ⟨rfl, rfl⟩, fun hidle => by simp [hb] at hidle⟩

theorem asTransfers_map_data (bs : List Byte) : (asTransfers bs).map Transfer.data = bs := by
  induction bs using asTransfers.induct with
  | case1 => rfl
  | case2 b => rfl
  | case3 b c bs ih => rw [asTransfers, List.map_cons, ih]

/-- No proper beginning of a frame contains its last byte. -/
theorem last_of_mem_take_asTransfers {bs : List Byte} {k : Nat} (hk : k < bs.length) {x : Transfer}
    (hx : x ∈ (asTransfers bs).take k) : x.last = false := by
  obtain ⟨j, hj, rfl⟩ := List.mem_take_iff_getElem.mp hx
  rw [asTransfers_length] at hj
  rw [asTransfers_getElem bs j (by omega)]
  simp
  omega

/-- Settles O34: the wire record names the part of the frame that was taken; the reset keeps it and drops the
frame. -/
theorem resetCutsFrameToAPart : Obligations.ResetCutsFrameToAPart := by
  intro s hi hw hb hr
  obtain ⟨before, hsent⟩ := hw hb
  have hpart : s.idx.toNat < s.heldFrame.length := by
    rw [hi.heldFrame_length hb]
    exact hi.busyIdx hb
  have hidle : s.popInput.resetEdge.busy = false := State.resetEdge_busy _
  exact ⟨_, before, _, step_of_rst s hr, State.resetEdge_sent _, hsent,
    by rw [List.map_take, asTransfers_map_data], hpart, fun _ => last_of_mem_take_asTransfers hpart,
    State.pending_of_idle hidle, State.reqReady_of_idle hidle⟩

end Sys2Proof.Machine

/-! Two states side by side (10_state.md R24, R34; 60_exceptions.md R208): the kind of an edge is decided by `busy` and
the inputs, so states that agree in these take the same update. -/

namespace Sys2Proof.Machine

theorem State.nextInput_congr {s t : State} (hin : s.inputs = t.inputs) : s.nextInput = t.nextInput :=
  congrArg (List.headD · EdgeInput.quiet) hin

theorem State.edge_congr {s t : State} (hb : s.busy = t.busy) (hin : s.inputs = t.inputs) : s.edge = t.edge := by
  rw [State.edge, State.edge, hb, State.nextInput_congr hin]

/-- Everything a step can do in two states that agree in `busy` and the inputs. -/
theorem step_cases_pair {s t : State} (hb : s.busy = t.busy) (hin : s.inputs = t.inputs) :
    (step s = .next s.popInput.resetEdge ∧ step t = .next t.popInput.resetEdge) ∨
    (∃ bs, build s.nextInput.req = .frame bs ∧ s.nextInput.rst = false ∧
      step s = .next (s.popInput.loadFrame bs) ∧ step t = .next (t.popInput.loadFrame bs)) ∨
    (∃ c, step s = .next (s.popInput.takeReject c) ∧ step t = .next (t.popInput.takeReject c)) ∨
    (s.busy = true ∧ s.nextInput.rst = false ∧
      step s = .next s.popInput.transfer ∧ step t = .next t.popInput.transfer) ∨
    (s.nextInput.rst = false ∧ step s = .next s.popInput.hold ∧ step t = .next t.popInput.hold) := by
  have he := State.edge_congr hb hin
  have hreq := State.nextInput_congr hin
  obtain ⟨hk, -, hs⟩ | ⟨bs, -, hr, hidle, hv, hB, hs⟩ | ⟨c, -, hr, hidle, hv, hB, hs⟩ | ⟨hk, hr, hbusy, -, hs⟩ |
    ⟨hk, hr, -, hs⟩ := step_cases s
  · exact .inl ⟨hs, step_reset t (he ▸ hk)⟩
  · exact .inr (.inl ⟨bs, hB, hr, hs, step_of_frame (hb ▸ hidle) (hreq ▸ hr) (hreq ▸ hv) (hreq ▸ hB)⟩)
  · exact .inr (.inr (.inl ⟨c, hs, step_of_reject (hb ▸ hidle) (hreq ▸ hr) (hreq ▸ hv) (hreq ▸ hB)⟩))
  · exact .inr (.inr (.inr (.inl ⟨hbusy, hr, hs, step_transfer t (he ▸ hk)⟩)))
  · exact .inr (.inr (.inr (.inr ⟨hr, hs, step_hold t (he ▸ hk)⟩)))

/-- The invariant reads defined values alone. -/
theorem SameDefined.inv {s t : State} (h : SameDefined s t) (hi : s.Inv) : t.Inv where
  busyFrame hb := by
    have hbusy := h.busy.trans hb
    exact h.frame hbusy ▸ hi.busyFrame hbusy
  busyLen hb := h.len ▸ hi.busyLen (h.busy.trans hb)
  busyIdx hb := h.idx ▸ h.len ▸ hi.busyIdx (h.busy.trans hb)
  idleIdx hb := h.idx ▸ hi.idleIdx (h.busy.trans hb)
  code := h.errCodeR ▸ hi.code
  pulse hp := by
    obtain ⟨hidle, hcode⟩ := hi.pulse (h.errValidR.trans hp)
    exact ⟨h.busy ▸ hidle, h.errCodeR ▸ hcode⟩

theorem SameDefined.atLast_eq {s t : State} (h : SameDefined s t) : s.atLast = t.atLast := by
  rw [State.atLast, State.atLast, h.idx, h.len]

/-- While a frame is held the current byte is one of its bytes, and the frame is the same. -/
theorem SameDefined.currentByte_eq {s t : State} (h : SameDefined s t) (hi : s.Inv) (hb : s.busy = true) :
    s.currentByte = t.currentByte := by
  obtain ⟨hs, hbyte⟩ := hi.currentByte_eq hb
  obtain ⟨ht, hbyte'⟩ := (h.inv hi).currentByte_eq (h.busy ▸ hb)
  rw [hbyte, hbyte']
  simp only [h.frame hb, h.idx]

theorem SameDefined.txData_eq {s t : State} (h : SameDefined s t) (hi : s.Inv) : s.txData = t.txData := by
  cases hb : s.busy with
  | true => rw [State.txData_of_busy hb, State.txData_of_busy (h.busy ▸ hb), h.currentByte_eq hi hb]
  | false => simp [State.txData, ← h.busy, hb]

theorem SameDefined.txLast_eq {s t : State} (h : SameDefined s t) : s.txLast = t.txLast := by
  rw [State.txLast, State.txLast, h.busy, h.atLast_eq]

theorem SameDefined.pending_eq {s t : State} (h : SameDefined s t) : s.pending = t.pending := by
  cases hb : s.busy with
  | true => simp [State.pending, ← h.busy, hb, h.frame hb, h.idx]
  | false => rw [State.pending_of_idle hb, State.pending_of_idle (h.busy ▸ hb)]

theorem SameDefined.popInput {s t : State} (h : SameDefined s t) : SameDefined s.popInput t.popInput :=
  ⟨h.busy, h.len, h.idx, h.errValidR, h.errCodeR, congrArg List.tail h.inputs, h.sent, h.frame⟩

theorem SameDefined.resetEdge {s t : State} (h : SameDefined s t) : SameDefined s.resetEdge t.resetEdge :=
  ⟨rfl, rfl, rfl, rfl, rfl, h.inputs, h.sent, by simp⟩

theorem SameDefined.takeReject {s t : State} (h : SameDefined s t) (c : RejectCode) :
    SameDefined (s.takeReject c) (t.takeReject c) :=
  ⟨h.busy, h.len, h.idx, rfl, rfl, h.inputs, h.sent, h.frame⟩

theorem SameDefined.hold {s t : State} (h : SameDefined s t) : SameDefined s.hold t.hold :=
  ⟨h.busy, h.len, h.idx, rfl, h.errCodeR, h.inputs, h.sent, h.frame⟩

/-- The free entries past the frame differ by the draws, the frame does not. -/
theorem SameDefined.loadFrame {s t : State} (h : SameDefined s t) {r : Request} {bs : List Byte}
    (hB : build r = .frame bs) : SameDefined (s.loadFrame bs) (t.loadFrame bs) :=
  ⟨rfl, rfl, rfl, rfl, h.errCodeR, h.inputs, h.sent,
    fun _ => (loadFrame_loads r bs s hB).frame.trans (loadFrame_loads r bs t hB).frame.symm⟩

/-- A transfer puts a byte of the frame on the wire, and leaves the frame or no defined entry at all. -/
theorem SameDefined.transfer {s t : State} (h : SameDefined s t) (hi : s.Inv) (hb : s.busy = true) :
    SameDefined s.transfer t.transfer where
  busy := by rw [State.transfer_busy, State.transfer_busy, h.atLast_eq, h.busy]
  len := by rw [State.transfer_len, State.transfer_len, h.len]
  idx := by rw [State.transfer_idx, State.transfer_idx, h.atLast_eq, h.idx]
  errValidR := by rw [State.transfer_errValidR, State.transfer_errValidR]
  errCodeR := by rw [State.transfer_errCodeR, State.transfer_errCodeR, h.errCodeR]
  inputs := by rw [State.transfer_inputs, State.transfer_inputs, h.inputs]
  sent := by rw [State.transfer_sent, State.transfer_sent, h.sent, h.currentByte_eq hi hb, h.atLast_eq]
  frame hbusy := by
    cases hl : s.atLast with
    | true => simp [State.transfer_busy_of_last hl] at hbusy
    | false => rw [heldFrame_transfer hl, heldFrame_transfer (h.atLast_eq ▸ hl), h.frame hb]

/-- Both states take the same update, and each update keeps the agreement. -/
theorem SameDefined.of_step {s t s' t' : State} (h : SameDefined s t) (hi : s.Inv) (hs' : step s = .next s')
    (ht' : step t = .next t') : SameDefined s' t' := by
  obtain ⟨hs, ht⟩ | ⟨bs, hB, -, hs, ht⟩ | ⟨c, hs, ht⟩ | ⟨hb, -, hs, ht⟩ | ⟨-, hs, ht⟩ :=
    step_cases_pair h.busy h.inputs <;> cases hs.symm.trans hs' <;> cases ht.symm.trans ht'
  · exact h.popInput.resetEdge
  · exact h.popInput.loadFrame hB
  · exact h.popInput.takeReject c
  · exact h.popInput.transfer hi.popInput hb
  · exact h.popInput.hold

/-- Settles O36: the outputs read entries of the frame held alone, and the agreement is kept update by update. -/
theorem undefinedEntriesAreNeverSeen : Obligations.UndefinedEntriesAreNeverSeen :=
  fun _ _ hi h => ⟨h.txData_eq hi, h.txLast_eq, h.pending_eq, fun _ _ => h.of_step hi⟩

theorem SameButStatus.refl (s : State) : SameButStatus s s :=
  ⟨rfl, rfl, rfl, rfl, rfl, rfl, rfl⟩

theorem SameButStatus.popInput {s t : State} (h : SameButStatus s t) : SameButStatus s.popInput t.popInput :=
  ⟨h.busy, h.buf, h.len, h.idx, congrArg List.tail h.inputs, h.sent, h.draws⟩

/-- States that agree in the reject status too are equal. -/
theorem SameButStatus.eq_of_status {s t : State} (h : SameButStatus s t) (hv : s.errValidR = t.errValidR)
    (hc : s.errCodeR = t.errCodeR) : s = t := by
  obtain ⟨hbusy, hbuf, hlen, hidx, hinputs, hsent, hdraws⟩ := h
  cases s
  cases t
  simp_all

theorem SameButStatus.resetEdge_eq {s t : State} (h : SameButStatus s t) : s.resetEdge = t.resetEdge :=
  SameButStatus.eq_of_status ⟨rfl, congrArg (fillBuf []) h.draws, rfl, rfl, h.inputs, h.sent,
    congrArg (· + Config.bufDepth) h.draws⟩ rfl rfl

theorem SameButStatus.takeReject_eq {s t : State} (h : SameButStatus s t) (c : RejectCode) :
    s.takeReject c = t.takeReject c :=
  SameButStatus.eq_of_status ⟨h.busy, h.buf, h.len, h.idx, h.inputs, h.sent, h.draws⟩ rfl rfl

theorem SameButStatus.loadFrame {s t : State} (h : SameButStatus s t) (bs : List Byte) :
    SameButStatus (s.loadFrame bs) (t.loadFrame bs) :=
  ⟨rfl, congrArg (fillBuf bs) h.draws, rfl, rfl, h.inputs, h.sent, congrArg (· + Config.bufDepth) h.draws⟩

theorem SameButStatus.hold {s t : State} (h : SameButStatus s t) : SameButStatus s.hold t.hold :=
  ⟨h.busy, h.buf, h.len, h.idx, h.inputs, h.sent, h.draws⟩

theorem SameButStatus.atLast_eq {s t : State} (h : SameButStatus s t) : s.atLast = t.atLast := by
  rw [State.atLast, State.atLast, h.idx, h.len]

theorem SameButStatus.currentByte_eq {s t : State} (h : SameButStatus s t) : s.currentByte = t.currentByte := by
  rw [State.currentByte, State.currentByte, h.idx, h.buf]

/-- Neither the byte taken nor its `tx_last` is read from the status. -/
theorem SameButStatus.transfer {s t : State} (h : SameButStatus s t) : SameButStatus s.transfer t.transfer where
  busy := by rw [State.transfer_busy, State.transfer_busy, h.atLast_eq, h.busy]
  buf := by rw [State.transfer_buf, State.transfer_buf, h.atLast_eq, h.draws, h.buf]
  len := by rw [State.transfer_len, State.transfer_len, h.len]
  idx := by rw [State.transfer_idx, State.transfer_idx, h.atLast_eq, h.idx]
  inputs := by rw [State.transfer_inputs, State.transfer_inputs, h.inputs]
  sent := by rw [State.transfer_sent, State.transfer_sent, h.sent, h.currentByte_eq, h.atLast_eq]
  draws := by rw [State.transfer_draws, State.transfer_draws, h.atLast_eq, h.draws]

/-- Both states take the same update. A reset and a reject write the whole status, so they leave equal states; the
other updates let the pulse fall in both. -/
theorem SameButStatus.of_step {s t s' t' : State} (h : SameButStatus s t) (hs' : step s = .next s')
    (ht' : step t = .next t') :
    s' = t' ∨ SameButStatus s' t' ∧ s'.errValidR = false ∧ t'.errValidR = false ∧ s.nextInput.rst = false := by
  have hpop := h.popInput
  obtain ⟨hs, ht⟩ | ⟨bs, -, hr, hs, ht⟩ | ⟨c, hs, ht⟩ | ⟨-, hr, hs, ht⟩ | ⟨hr, hs, ht⟩ :=
    step_cases_pair h.busy h.inputs <;> cases hs.symm.trans hs' <;> cases ht.symm.trans ht'
  · exact .inl hpop.resetEdge_eq
  · exact .inr ⟨hpop.loadFrame bs, rfl, rfl, hr⟩
  · exact .inl (hpop.takeReject_eq c)
  · exact .inr ⟨hpop.transfer, State.transfer_errValidR _, State.transfer_errValidR _, hr⟩
  · exact .inr ⟨hpop.hold, rfl, rfl, hr⟩

/-- Settles O35: the two ways of `SameButStatus.of_step`, equal states or fallen pulses without a reset. -/
theorem statusIsReadByNothing : Obligations.StatusIsReadByNothing := by
  intro s t s' t' h hs ht
  obtain rfl | ⟨hsame, hpulse, hpulse', hr⟩ := h.of_step hs ht
  · exact ⟨SameButStatus.refl s', rfl, fun _ => rfl⟩
  · exact ⟨hsame, hpulse.trans hpulse'.symm, by simp [hpulse, hr]⟩

end Sys2Proof.Machine

/-! Decoding, encoding (30_encoding.md R65, R68, R69), and what an edge does with the request it carries. -/

namespace Sys2Proof.Machine

/-- The fields of a word put together again give the word (30_encoding.md R65). -/
theorem toWord_ofWord (w : RequestWord) : (Request.ofWord w).toWord = w := by
  have hhigh : w.extractLsb' 16 32 ++ w.extractLsb' 8 8 = w.extractLsb' 8 40 :=
    BitVec.extractLsb'_append_extractLsb'_eq_extractLsb' rfl
  have hall : w.extractLsb' 8 40 ++ w.extractLsb' 0 8 = w.extractLsb' 0 48 :=
    BitVec.extractLsb'_append_extractLsb'_eq_extractLsb' rfl
  calc (Request.ofWord w).toWord
      = w.extractLsb' 16 32 ++ w.extractLsb' 8 8 ++ w.extractLsb' 0 8 := rfl
    _ = w := by rw [hhigh, hall, BitVec.extractLsb'_eq_self]

theorem decode_request (i : Instr) : decode i.request = .ok i := by cases i <;> rfl

/-- A request that decodes is the request that offers its operation: no field of it is lost. -/
theorem request_of_decode {r : Request} {i : Instr} (h : decode r = .ok i) : i.request = r := by
  obtain ⟨a, c, w⟩ := r
  unfold decode at h
  split_ifs at h with h1 h2 h3 h4 <;> cases h
  · exact congrArg (Request.mk a · w) h1.symm
  · exact congrArg (Request.mk a · w) h2.symm
  · exact congrArg (Request.mk a · w) h3.symm
  · exact congrArg (Request.mk a · w) h4.symm

/-- Settles O6: words and requests are the same thing told in two ways, and of a request's three fields decoding drops
none. -/
theorem decodeAndEncodeAgree : Obligations.DecodeAndEncodeAgree := by
  refine ⟨fun i _ => ?decodes, fun w i h => ?encodes⟩
  case decodes => rw [decodeWord, encode, Laws.ofWord_toWord, decode_request]
  case encodes => rw [encode, request_of_decode h, toWord_ofWord]

/-- Settles O7: each legal command byte is that of an operation, whose request decodes to it; any other byte passes
the four tests. -/
theorem commandByteSelectsOperation : Obligations.CommandByteSelectsOperation := by
  intro a c w
  refine ⟨?_, ?_, ?_, ?_, fun h1 h2 h3 h4 => ?_⟩
  · rintro rfl
    exact decode_request (.handshake a w)
  · rintro rfl
    exact decode_request (.readGross a w)
  · rintro rfl
    exact decode_request (.readTare a w)
  · rintro rfl
    exact decode_request (.readNet a w)
  · rw [decode, if_neg h1, if_neg h2, if_neg h3, if_neg h4]

/-- Settles O8: the words are fixed, so both sides are computed. -/
theorem listedWordsDecodeAsListed : Obligations.ListedWordsDecodeAsListed :=
  ⟨rfl, rfl, rfl, rfl, rfl⟩

/-- Settles O9: the edge is an accept edge, at which the step decodes the request and runs its operation. -/
theorem stepRunsDecodedRequest : Obligations.StepRunsDecodedRequest := by
  intro s i hb hr hv hd
  simp only [step, edge_accept s hb hr hv, hd]

theorem decodeTableWord_eq_some {w : Nat} {i : Instr} (hw : w < 2 ^ 48) (h : decodeTableWord 48 w = some i) :
    decodeWord (BitVec.ofNat 48 w) = .ok i := by
  rw [decodeTableWord, Nat.mod_eq_of_lt hw, if_pos hw] at h
  cases hd : decodeWord (BitVec.ofNat 48 w) with
  | error e => simp [hd] at h
  | ok j => simpa [hd] using h

/-- Settles O10: the placing makes the next edge an accept edge of the word's request, whatever the block does. -/
theorem placedWordRunsNext : Obligations.PlacedWordRunsNext := by
  intro s w i hw h
  have hd := decodeTableWord_eq_some hw h
  rw [← Nat.mod_eq_of_lt hw] at hd
  exact stepRunsDecodedRequest _ i rfl rfl rfl hd

/-- Settles O12: the weight operand does not occur in the meaning of HANDSHAKE. -/
theorem handshakeIgnoresWeight : Obligations.HandshakeIgnoresWeight := fun _ _ _ _ => rfl

/-- An operation's meaning answers with what Build says of its request. -/
theorem exec_eq_answer (i : Instr) (s : State) : exec i s = answer (build i.request) s := by
  obtain ⟨j, hj, he⟩ | ⟨e, hj, -⟩ := decode_build i.request <;> cases (decode_request i).symm.trans hj
  exact he s

/-- A step reads the kind of its edge, and of the state what is left when the edge's input is used up. -/
theorem step_congr {s t : State} (he : s.edge = t.edge) (hpop : s.popInput = t.popInput) : step s = step t := by
  rw [step, step, he, hpop]

/-- Settles O20: without an accept edge the request ports decide nothing of the kind of the edge, and they are used up
with it; an operation's meaning answers its request, of which a busy block records nothing. -/
theorem unacceptedRequestsLeaveNoTrace : Obligations.UnacceptedRequestsLeaveNoTrace := by
  refine ⟨fun s e rest v r h => step_congr ?notReady rfl, fun s e rest r h => step_congr ?notOffered rfl,
    fun s i hb => ?busy⟩
  case notReady => obtain h | h := h <;> simp [State.edge, State.nextInput, h]
  case notOffered => simp [State.edge, State.nextInput, h]
  case busy => rw [exec_eq_answer, answer_busy _ s hb]

end Sys2Proof.Machine

/-! What a frame tells of its request (41_frame_builder.md R134): the weight in decimal, the command byte, and the
command byte once more in the checksum. -/

namespace Sys2Proof.Machine

/-- Build makes the table's frame of every weight command it does not reject. -/
theorem build_weightFrame {r : Request} {bs : List Byte} (h : build r = .frame bs) (hc : r.cmd ≠ 0x41) :
    r.weight.toInt.natAbs ≤ 999999 ∧ bs = tableFrame r.addr r.cmd r.weight.toInt := by
  obtain ⟨hc', -⟩ | ⟨-, hw, rfl⟩ := build_frame_cases r bs h
  · exact absurd hc' hc
  · exact ⟨hw, wrapBody_weight_eq_tableFrame _ _ _⟩

/-- The digit of the place `10 ^ k` stands `k` before the last digit, which is at index 9 (30_encoding.md R76). -/
theorem tableFrame_digit (a c : Byte) (w : Int) {k : Nat} (hk : k < 6) :
    (tableFrame a c w)[9 - k]? = some (digitChar (magnitude w) (10 ^ k)) := by
  interval_cases k <;> rfl

theorem tableFrame_sign (a c : Byte) (w : Int) : (tableFrame a c w)[3]? = some (signChar w) := rfl

theorem digitChar_value (mag p : Nat) : ((digitChar mag p).toNat : Int) - 0x30 = (mag / p % 10 : Nat) := by
  rw [digitChar_toNat]
  omega

/-- A magnitude within the bound is the sum of its six decimal digits, each at its place. -/
theorem sum_digits {m : Nat} (hm : m ≤ 999999) :
    ((List.range 6).map fun k => ((m / 10 ^ k % 10 : Nat) : Int) * 10 ^ k).sum = m := by
  simp [List.range_succ]
  omega

/-- A receiver reads the weight back: the digits add up to its magnitude, and the sign is its sign. -/
theorem readWeight_tableFrame (a c : Byte) {w : Int} (hw : w.natAbs ≤ 999999) :
    readWeight (tableFrame a c w) = w := by
  have hdigits : ∀ k ∈ List.range 6, (((tableFrame a c w).getD (9 - k) 0).toNat - 0x30 : Int) * 10 ^ k =
      ((magnitude w / 10 ^ k % 10 : Nat) : Int) * 10 ^ k := by
    intro k hk
    rw [List.getD_eq_getElem?_getD, tableFrame_digit a c w (List.mem_range.mp hk), Option.getD_some, digitChar_value]
  rw [readWeight, List.map_congr_left hdigits, sum_digits (m := magnitude w) hw, List.getD_eq_getElem?_getD,
    tableFrame_sign, Option.getD_some, magnitude]
  obtain ⟨hpos, hsign⟩ | ⟨hneg, hsign⟩ := signChar_cases w
  · rw [hsign, if_pos rfl]
    omega
  · rw [hsign, if_neg (by decide)]
    omega

theorem digit_eq_zero_of_digitChar {mag p : Nat} (h : digitChar mag p = 0x30) : mag / p % 10 = 0 := by
  have hcode := digitChar_toNat mag p
  rw [h] at hcode
  simpa using hcode

/-- Six zeros are the magnitude 0, whose sign is '+' (41_frame_builder.md R124). -/
theorem tableFrame_no_negative_zero (a c : Byte) {w : Int} (hw : w.natAbs ≤ 999999)
    (hsign : (tableFrame a c w)[3]? = some 0x2D) :
    ¬ ∀ k, 4 ≤ k → k ≤ 9 → (tableFrame a c w)[k]? = some 0x30 := by
  intro hzeros
  have hneg : w < 0 := by
    rw [tableFrame_sign] at hsign
    obtain ⟨-, hs⟩ | ⟨hneg, -⟩ := signChar_cases w
    · simp [hs] at hsign
    · exact hneg
  have hdigits : ∀ k ∈ List.range 6, ((magnitude w / 10 ^ k % 10 : Nat) : Int) * 10 ^ k = 0 := by
    intro k hk
    have hlt := List.mem_range.mp hk
    have hzero := hzeros (9 - k) (by omega) (by omega)
    rw [tableFrame_digit a c w hlt] at hzero
    simp [digit_eq_zero_of_digitChar (Option.some.inj hzero)]
  have hsum := sum_digits (m := magnitude w) hw
  rw [List.map_congr_left hdigits] at hsum
  have hmag : magnitude w = 0 := by simpa using hsum.symm
  rw [magnitude] at hmag
  omega

/-- Settles O26: a weight command's frame is the table's, from which the weight reads back. -/
theorem weightReadsBackFromFrame : Obligations.WeightReadsBackFromFrame := by
  intro r bs h hc
  obtain ⟨hw, rfl⟩ := build_weightFrame h hc
  exact ⟨readWeight_tableFrame _ _ hw, fun ⟨hsign, hzeros⟩ => tableFrame_no_negative_zero _ _ hw hsign hzeros⟩

/-- Settles O28: address and command stand at their indices (O25), and the weight reads back (O26). -/
theorem frameDeterminesRequest : Obligations.FrameDeterminesRequest := by
  intro r q bs hr hq
  obtain ⟨-, -, -, haddr, hcmd, -⟩ := framePositionsHoldTheirValues r bs hr
  obtain ⟨-, -, -, haddr', hcmd', -⟩ := framePositionsHoldTheirValues q bs hq
  have hsame : r.cmd = q.cmd := Option.some.inj (hcmd.symm.trans hcmd')
  refine ⟨Option.some.inj (haddr.symm.trans haddr'), hsame, fun hc => BitVec.eq_of_toInt_eq ?_⟩
  rw [← (weightReadsBackFromFrame r bs hr hc).1, ← (weightReadsBackFromFrame q bs hq (hsame ▸ hc)).1]

/-- Equal checksum characters are those of equal sums. -/
theorem xorSum_eq_of_checksum_eq {body body' : List Byte} (hlen : body.length = body'.length)
    (hhi : (wrapBody body)[body.length + 1]? = (wrapBody body')[body.length + 1]?)
    (hlo : (wrapBody body)[body.length + 2]? = (wrapBody body')[body.length + 2]?) : xorSum body = xorSum body' := by
  obtain ⟨hi, lo, h1, h2, hsum⟩ := wrapBody_readChecksum body
  obtain ⟨hi', lo', h1', h2', hsum'⟩ := wrapBody_readChecksum body'
  rw [wrapBody_length] at h1 h2 h1' h2'
  rw [← hlen] at h1' h2'
  cases h1.symm.trans (hhi.trans h1')
  cases h2.symm.trans (hlo.trans h2')
  exact Option.some.inj (hsum.symm.trans hsum')

/-- The command byte of a body can be told from the sum, the other bytes being the same. -/
theorem xorSum_command_injective {a c c' : Byte} {pay : List Byte}
    (h : xorSum (a :: c :: pay) = xorSum (a :: c' :: pay)) : c = c' := by
  simpa only [xorSum_cons, BitVec.xor_right_inj, BitVec.xor_left_inj] using h

/-- Another command byte in the body of a weight frame changes that byte and the checksum characters. -/
theorem wrapBody_of_other_command (a c c' : Byte) (w : Int) :
    ∃ hi lo, wrapBody (a :: c' :: payload w) =
      (((wrapBody (a :: c :: payload w)).set 2 c').set 11 hi).set 12 lo :=
  ⟨_, _, rfl⟩

/-- Settles O27: one frame is the other with three bytes set, and equal checksum characters would make the commands
equal. -/
theorem commandsDifferInCommandAndChecksum : Obligations.CommandsDifferInCommandAndChecksum := by
  intro a c c' w bs cs hne hc hc' hbs hcs
  obtain ⟨pay, rfl, -, -, ⟨h, -⟩ | ⟨-, rfl⟩⟩ := build_frame_shape hbs
  · exact absurd h hc
  obtain ⟨pay, rfl, -, -, ⟨h, -⟩ | ⟨-, rfl⟩⟩ := build_frame_shape hcs
  · exact absurd h hc'
  refine ⟨fun k h2 h11 h12 => ?others, fun h => hne (Option.some.inj h), ?checksum⟩
  case others =>
    obtain ⟨hi, lo, heq⟩ := wrapBody_of_other_command a c c' w.toInt
    simp only [heq, List.getElem?_set_ne h2.symm, List.getElem?_set_ne h11.symm, List.getElem?_set_ne h12.symm]
  case checksum =>
    by_contra! hsame
    obtain ⟨hhi, hlo⟩ := hsame
    exact hne (xorSum_command_injective (xorSum_eq_of_checksum_eq rfl hhi hlo))

end Sys2Proof.Machine

/-! Bounded liveness (70_reset_and_hazards.md R254, R255): each edge at which the sink is ready takes one of the bytes
pending, and no other edge without reset takes or adds one while a frame is held. -/

namespace Sys2Proof.Machine

theorem State.nextInput_of_cons {s : State} {e : EdgeInput} {es : List EdgeInput} (h : s.inputs = e :: es) :
    s.nextInput = e := by
  simp [State.nextInput, h]

theorem State.Inv.pending_length {s : State} (hi : s.Inv) (hb : s.busy = true) :
    s.pending.length = s.len.toNat - s.idx.toNat := by
  rw [State.pending, if_pos hb, List.length_drop, asTransfers_length, hi.heldFrame_length hb]

/-- The block is idle exactly when nothing is pending. -/
theorem State.Inv.busy_eq_false_iff {s : State} (hi : s.Inv) : s.busy = false ↔ s.pending = [] := by
  refine ⟨State.pending_of_idle, fun h => Bool.eq_false_iff.mpr fun hb => ?_⟩
  have hlen := hi.pending_length hb
  have hidx := hi.busyIdx hb
  simp only [h, List.length_nil] at hlen
  omega

/-- A transfer takes the first of the bytes pending. -/
theorem State.Inv.step_transfer_pending {s : State} (hi : s.Inv) (hb : s.busy = true) (hr : s.nextInput.rst = false)
    (ht : s.nextInput.txReady = true) :
    ∃ t x, step s = .next t ∧ t.sent = s.sent ++ [x] ∧ s.pending = x :: t.pending :=
  ⟨_, _, step_transfer s (edge_transfer s hb hr ht), State.transfer_sent s.popInput, hi.popInput.pending_transfer hb⟩

/-- With a sink that is always ready `k` edges take the first `k` bytes pending. -/
theorem run_ready (k : Nat) {s : State} (hi : s.Inv) (hk : k ≤ s.pending.length) (hk' : k ≤ s.inputs.length)
    (hready : ∀ e ∈ s.inputs.take k, e.rst = false ∧ e.txReady = true) :
    ∃ t, run k s = .next t ∧ t.Inv ∧ t.sent = s.sent ++ s.pending.take k ∧ t.pending = s.pending.drop k := by
  induction k generalizing s with
  | zero => exact ⟨s, rfl, hi, by simp, rfl⟩
  | succ k ih =>
    have hb : s.busy = true := by
      by_contra hidle
      simp [State.pending_of_idle (Bool.eq_false_iff.mpr hidle)] at hk
    obtain ⟨e, es, hin⟩ := List.exists_cons_of_length_pos (Nat.lt_of_lt_of_le k.succ_pos hk')
    rw [hin, List.take_succ_cons, List.forall_mem_cons] at hready
    obtain ⟨⟨hr, ht⟩, hready⟩ := hready
    have he := State.nextInput_of_cons hin
    obtain ⟨u, x, hs, hsent, hpend⟩ := hi.step_transfer_pending hb (he ▸ hr) (he ▸ ht)
    have hin' : u.inputs = es := by rw [step_inputs hs, hin, List.tail_cons]
    obtain ⟨t, hrun, hit, hsent', hpend'⟩ := ih (hi.of_step hs) (by simpa [hpend] using hk)
      (by simpa [hin, hin'] using hk') (hin' ▸ hready)
    exact ⟨t, (run_succ hs).trans hrun, hit, by simp [hsent', hsent, hpend], by simp [hpend', hpend]⟩

/-- The status makes no difference to a run beyond itself. -/
theorem SameButStatus.run {s t s' : State} (n : Nat) (h : SameButStatus s t) (hrun : run n s = .next s') :
    ∃ t', Machine.run n t = .next t' ∧ SameButStatus s' t' := by
  induction n generalizing s t with
  | zero =>
    cases hrun
    exact ⟨t, rfl, h⟩
  | succ n ih =>
    obtain ⟨u, hs⟩ := step_next s
    obtain ⟨v, ht⟩ := step_next t
    obtain ⟨t', hrun', hsame⟩ := ih (statusIsReadByNothing s t u v h hs ht).1 (run_succ hs ▸ hrun)
    exact ⟨t', (run_succ ht).trans hrun', hsame⟩

/-- An idle block with this state's buffer and wire, and with the index and the status of reset. -/
def State.cleared (s : State) : State := { s with busy := false, idx := 0, errValidR := false, errCodeR := 0 }

@[simp] theorem State.cleared_inputs (s : State) : s.cleared.inputs = s.inputs := rfl

theorem State.inv_cleared (s : State) : s.cleared.Inv := by
  apply State.inv_of_idle <;> simp [State.cleared]

/-- A loaded frame shows nothing of the index and the pulse before it. -/
theorem State.sameButStatus_loadFrame_cleared (s : State) (bs : List Byte) :
    SameButStatus (s.cleared.loadFrame bs) (s.loadFrame bs) :=
  ⟨rfl, rfl, rfl, rfl, rfl, rfl, rfl⟩

/-- Settles O31: after the accept edge exactly the frame is pending, and each of the edges after it takes one byte. The
block before the accept edge need not meet the invariant, but the frame is loaded and sent as from a cleared one. -/
theorem frameTakesOneEdgePerByte : Obligations.FrameTakesOneEdgePerByte := by
  intro s bs k hb hr hv hB hready hlong hk
  have hpend := State.pending_loadFrame s.popInput.cleared hB
  have hi : (s.popInput.cleared.loadFrame bs).Inv := s.popInput.inv_cleared.loadFrame hB
  have hedges : k ≤ s.inputs.tail.length := by
    rw [List.length_tail]
    omega
  obtain ⟨t, hrun, hit, hsent, hrest⟩ := run_ready k hi (by simpa [hpend] using hk) hedges fun e he =>
    hready e (by simpa using List.take_subset_take_left _ hk he)
  obtain ⟨t', hrun', hsame⟩ := (State.sameButStatus_loadFrame_cleared s.popInput bs).run k hrun
  have hstep := step_of_frame hb hr hv hB
  refine ⟨t', ?_, hsame.sent ▸ hpend ▸ hsent, ?_⟩
  · rw [Nat.add_comm, run_succ hstep, hrun']
  · rw [← hsame.busy, hit.busy_eq_false_iff, hrest, hpend, List.drop_eq_nil_iff, asTransfers_length]
    omega

/-- How many of the next `n` edges have a ready sink. -/
def State.readyEdges (s : State) (n : Nat) : Nat := ((s.inputs.take n).filter fun e => e.txReady).length

theorem State.readyEdges_succ {s u : State} (n : Nat) (h : step s = .next u) :
    s.readyEdges (n + 1) = (if s.nextInput.txReady then 1 else 0) + u.readyEdges n := by
  rw [State.readyEdges, State.readyEdges, step_inputs h]
  cases hin : s.inputs with
  | nil => simp [State.nextInput, hin, EdgeInput.quiet]
  | cons e es =>
    rw [State.nextInput_of_cons hin, List.take_succ_cons, List.filter_cons, List.tail_cons]
    split <;> simp [Nat.add_comm]

/-- An edge without reset of a busy block takes one byte if the sink is ready, else none; the bytes taken and those
pending stay the same in all. -/
theorem State.Inv.busy_step {s : State} (hi : s.Inv) (hb : s.busy = true) (hr : s.nextInput.rst = false) :
    ∃ u, step s = .next u ∧ u.sent ++ u.pending = s.sent ++ s.pending ∧
      s.pending.length = (if s.nextInput.txReady then 1 else 0) + u.pending.length := by
  cases ht : s.nextInput.txReady with
  | true =>
    obtain ⟨u, x, hs, hsent, hpend⟩ := hi.step_transfer_pending hb hr ht
    exact ⟨u, hs, by simp [hsent, hpend], by simp [hpend, Nat.add_comm]⟩
  | false => exact ⟨_, step_hold s (edge_hold s hr (.inl ⟨hb, ht⟩)), rfl, by simp⟩

/-- By induction on the number of edges: as long as bytes are pending the block is busy, and each edge lowers their
number as it lowers the number of ready edges to come. -/
theorem run_completes (n : Nat) {s : State} (hi : s.Inv) (hn : s.noReset n)
    (hready : s.pending.length ≤ s.readyEdges n) :
    ∃ m t, m ≤ n ∧ run m s = .next t ∧ t.busy = false ∧ t.sent = s.sent ++ s.pending := by
  induction n generalizing s with
  | zero =>
    have hnil : s.pending = [] := by simpa [State.readyEdges] using hready
    exact ⟨0, s, Nat.le_refl 0, rfl, hi.busy_eq_false_iff.mpr hnil, by simp [hnil]⟩
  | succ n ih =>
    cases hb : s.busy with
    | false => exact ⟨0, s, Nat.zero_le _, rfl, hb, by simp [State.pending_of_idle hb]⟩
    | true =>
      obtain ⟨v, hv⟩ := step_next s
      obtain ⟨hr, -⟩ := hn.of_succ hv
      obtain ⟨u, hs, hstream, hlen⟩ := hi.busy_step hb hr
      rw [State.readyEdges_succ n hs, hlen] at hready
      obtain ⟨m, t, hm, hrun, hidle, hsent⟩ := ih (hi.of_step hs) (hn.of_succ hs).2 (by omega)
      exact ⟨m + 1, t, Nat.succ_le_succ hm, (run_succ hs).trans hrun, hidle, hsent.trans hstream⟩

/-- Settles O32: the bytes left of the frame are those pending. -/
theorem frameCompletesAsSinkTakes : Obligations.FrameCompletesAsSinkTakes := by
  intro n s hi hb hn hready
  exact run_completes n hi hn (hi.pending_length hb ▸ hready)

/-- Settles O37: a reject leaves the block idle, so the next request is accepted too. -/
theorem consecutiveRejectsKeepPulse : Obligations.ConsecutiveRejectsKeepPulse := by
  intro s e f rest c d hb hin her hev hec hfr hfv hfd
  have he : s.nextInput = e := State.nextInput_of_cons hin
  have hs := step_of_reject (s := s) (c := c) hb (he ▸ her) (he ▸ hev) (he ▸ hec)
  have hf : (s.popInput.takeReject c).nextInput = f := by
    apply State.nextInput_of_cons (es := rest)
    simp [hin]
  have ht := step_of_reject (c := d) (s := s.popInput.takeReject c) hb (hf ▸ hfr) (hf ▸ hfv) (hf ▸ hfd)
  have hready := State.reqReady_of_idle hb
  exact ⟨_, _, run_succ hs, (run_succ hs).trans (run_succ ht), rfl, rfl, hready, rfl, rfl, hready, rfl⟩

end Sys2Proof.Machine

/-! The host's side (42_request_dispatch.md R151 to R153, R159): which request an inbound frame gives. -/

namespace Sys2Proof.Machine

theorem inboundFrames_terminated {body : List Byte} (rest : List Byte) (h : (0x03 : Byte) ∉ body) :
    inboundFrames (body ++ 0x03 :: rest) = body :: inboundFrames rest :=
  inboundFramesFrom_terminated [] body rest h

/-- Terminated frames are read as they were sent, and a rest that nothing has terminated is not read. -/
theorem inboundFrames_flatMap (bodies : List (List Byte)) (rest : List Byte)
    (hbodies : ∀ body ∈ bodies, (0x03 : Byte) ∉ body) (hrest : (0x03 : Byte) ∉ rest) :
    inboundFrames (bodies.flatMap (fun body => body ++ [0x03]) ++ rest) = bodies := by
  induction bodies with
  | nil => exact inboundFramesFrom_unterminated [] rest hrest
  | cons body bodies ih =>
    obtain ⟨hbody, hbodies⟩ := List.forall_mem_cons.mp hbodies
    rw [List.flatMap_cons, List.append_assoc, List.append_assoc, List.singleton_append,
      inboundFrames_terminated _ hbody, ih hbodies]

/-- Settles O42: the offers are made for the frames read, which are the frames sent. -/
theorem requestsFollowInboundFrames : Obligations.RequestsFollowInboundFrames := by
  intro hostAt bodies rest hbodies hrest
  have hframes := inboundFrames_flatMap bodies rest hbodies hrest
  exact ⟨hframes, by rw [HostParams.offers, hframes]⟩

/-- A frame of fewer than 3 bytes offers nothing, unless it begins 'S','I' (42_request_dispatch.md R152). -/
theorem HostParams.request_of_short (p : HostParams) (store : Store) {body : List Byte} (hlen : body.length < 3)
    (halias : ¬ (body[0]? = some 0x53 ∧ body[1]? = some 0x49)) : p.request store body = none := by
  match body with
  | [] => rfl
  | [_] => rfl
  | [b0, b1] => exact if_neg (by simpa using halias)
  | _ :: _ :: _ :: _ => exact absurd hlen (by simp)

/-- Settles O39: the request offered is that of the first frame read. -/
theorem shortInboundOffersNothing : Obligations.ShortInboundOffersNothing := by
  intro p store raw
  refine ⟨fun body hread hlen halias => ?short, fun h => ?unterminated⟩
  case short => rw [HostParams.offered, hread, Option.bind_some, p.request_of_short store hlen halias]
  case unterminated =>
    rw [HostParams.offered, inboundBytes, inboundFrames, inboundFramesFrom_unterminated [] raw h]
    rfl

/-- A frame that does not begin 'S','I' is dispatched on its command byte (42_request_dispatch.md R153). -/
theorem HostParams.request_of_command (p : HostParams) (store : Store) {b0 b1 : Byte} (c : Byte) (rest : List Byte)
    (halias : ¬ (b0 = 0x53 ∧ b1 = 0x49)) :
    p.request store (b0 :: b1 :: c :: rest) =
      if c = 0x41 then some ⟨b1, c, p.undriven⟩
      else if c = 0x42 then some ⟨b1, c, p.present store.gross⟩
      else if c = 0x43 then some ⟨b1, c, p.present store.tare⟩
      else if c = 0x44 then some ⟨b1, c, p.present store.net⟩
      else if p.drops then none
      else some ⟨b1, c, p.undriven⟩ :=
  if_neg halias

/-- An unrecognised command gets no reply: it is dropped, or the block rejects it. -/
theorem HostParams.reply_of_illegalCommand (p : HostParams) (store : Store) {b0 b1 c : Byte} (rest : List Byte)
    (halias : ¬ (b0 = 0x53 ∧ b1 = 0x49)) (hc : c ∉ ([0x41, 0x42, 0x43, 0x44] : List Byte)) :
    p.reply store (b0 :: b1 :: c :: rest) = [] := by
  have hrequest : p.request store (b0 :: b1 :: c :: rest) = if p.drops then none else some ⟨b1, c, p.undriven⟩ := by
    obtain ⟨h1, h2, h3, h4⟩ : c ≠ 0x41 ∧ c ≠ 0x42 ∧ c ≠ 0x43 ∧ c ≠ 0x44 := by simpa using hc
    rw [p.request_of_command store c rest halias, if_neg h1, if_neg h2, if_neg h3, if_neg h4]
  have hwire : (build ⟨b1, c, p.undriven⟩).wire = [] := by rw [build_illegalCommand hc, BuildOutcome.wire]
  rw [HostParams.reply, hrequest]
  cases p.drops
  · exact hwire
  · rfl

/-- Settles O40: the four commands by their rows of the table, and every other one by the reply it does not get. -/
theorem dispatchReadsIndicesOneAndTwo : Obligations.DispatchReadsIndicesOneAndTwo := by
  intro p store b0 b1 c rest halias
  have hrequest := p.request_of_command store c rest halias
  refine ⟨?_, ?_, ?_, ?_, p.reply_of_illegalCommand store rest halias⟩
  · rintro rfl
    exact ⟨_, hrequest⟩
  · rintro rfl
    exact hrequest
  · rintro rfl
    exact hrequest
  · rintro rfl
    exact hrequest

end Sys2Proof.Machine
